-- ==== Sys2Proof/Word.lean ====
section
/-! DEFINITION. The bit-vector types of the SHA-256 CORE (spec 00_scope R6, R7, R9): every value is unsigned, bit 0 is
the least significant, and addition on a `Word` wraps modulo 2^32 because `BitVec` addition does (R10, 41_compressor R157). -/

namespace Sys2Proof

/-- A word of the running state, the schedule and the constants (R6, `WORD` = 32), and the response word (R7). -/
abbrev Word := BitVec 32

/-- A byte of the message, the block buffer and the digest (R9). -/
abbrev Byte := BitVec 8

/-- The 16-bit command word of format CMD (30_encoding R91). -/
abbrev CmdWord := BitVec 16

/-- The 8-bit selector word of format SEQ (30_encoding R92). -/
abbrev SelWord := BitVec 8

end Sys2Proof
end

