-- ==== Sys2Proof/Syntax.lean ====
section
/-! DEFINITION. The instructions of the SHA-256 CORE, one constructor a row of spec/opcode_table.json: seven host commands
(30_encoding R95) and eight micro-operations of the sequencer (R96). -/

namespace Sys2Proof

/-- An instruction. A command's index field is exactly as wide as the space it indexes, so an index out of range cannot be
written down (30_encoding R94, 92_eei_decisions D2). A micro-operation carries no field: its operands are the registers
`T`, `LK` and `FILL` (R92). -/
inductive Instr where
  /-- INIT, begin a new hash (44_entry_point R190). -/
  | init
  /-- ABSORB b, append one message byte (40_padder R124). -/
  | absorb (b : Byte)
  /-- FINAL, end the message and start the padder (40_padder R125). -/
  | final
  /-- RDSTAT, read the status word (44_entry_point R191). -/
  | rdstat
  /-- RDH i, read one word of the running state (42_digest_assembler R171). -/
  | rdh (i : BitVec 3)
  /-- RDDIG i, read one byte of the digest (42_digest_assembler R172). -/
  | rddig (i : BitVec 5)
  /-- RDHEX j, read one character of the hex string (43_hex_encoder R182). -/
  | rdhex (j : BitVec 6)
  /-- WLOAD, load the block into W[0..15] (41_compressor R150). -/
  | wload
  /-- WEXT, derive schedule word W[T] (41_compressor R151). -/
  | wext
  /-- VINIT, copy the running state into the working variables (41_compressor R152). -/
  | vinit
  /-- ROUND, one round of the round function, round T (41_compressor R153). -/
  | round
  /-- HFOLD, add the working variables back (41_compressor R154). -/
  | hfold
  /-- PAD80, append the marker byte (40_padder R126). -/
  | pad80
  /-- PAD00, append one zero byte (40_padder R127). -/
  | pad00
  /-- PADLEN, append length byte LK (40_padder R128). -/
  | padlen
  deriving DecidableEq, Repr

end Sys2Proof
end

