-- ==== Sys2Proof/WellFormed.lean ====
section
/-! DEFINITION. Which instruction is well formed in which of the two formats (spec 30_encoding R90). The operand ranges need
no check: they are the widths of the fields. The ranges of the assembler notation, where operands are plain numbers, are
checked in Machine/Assembler.lean. -/

namespace Sys2Proof

/-- The two formats (30_encoding R90): the 16-bit word of the command port, and the 8-bit selector word, which "never
appears on a port". -/
inductive Format where
  /-- The 16-bit command word a host presents on the command port. -/
  | cmd
  /-- The 8-bit selector word the sequencer decodes from the CORE's own state. -/
  | seq
  deriving DecidableEq, Repr

/-- The format of an instruction (column "format" of the opcode table; R95 commands, R96 micro-operations). -/
def Instr.format : Instr → Format
  | .init => .cmd
  | .absorb _ => .cmd
  | .final => .cmd
  | .rdstat => .cmd
  | .rdh _ => .cmd
  | .rddig _ => .cmd
  | .rdhex _ => .cmd
  | .wload => .seq
  | .wext => .seq
  | .vinit => .seq
  | .round => .seq
  | .hfold => .seq
  | .pad80 => .seq
  | .pad00 => .seq
  | .padlen => .seq

/-- An instruction is well formed in a format when it is an instruction of that format: a micro-operation cannot be issued
by the host (30_encoding R101), and a command cannot be selected by the sequencer (R92, R99). -/
def WellFormed (f : Format) (i : Instr) : Bool := i.format == f

end Sys2Proof
end

