-- ==== Sys2Proof/Decode.lean ====
section
/-! DEFINITION. Decoding of command words and selector words by mask and match, and the encoder, from the tables of spec
30_encoding R95 and R96. Decoding is total: a word no row matches is refused by name. -/

namespace Sys2Proof

/-- Why a word does not decode. -/
inductive DecodeError where
  /-- A command word no row of R95 matches (R97): the port raises ILLEGAL_CMD on it (60_exceptions R211). -/
  | illegalCommand (c : CmdWord)
  /-- A selector word no row of R96 matches (R99): the sequencer has no step. -/
  | noMicroOperation (sw : SelWord)
  deriving DecidableEq, Repr

/-- One row of an opcode map: a word `c` selects it when `c &&& mask = bits`; `build` takes the operand out of the word. -/
structure Row (n : Nat) where
  mask : BitVec n
  bits : BitVec n
  build : BitVec n → Instr

/-- Whether a word selects a row: "`(c AND mask) = match`" (R95, R96). -/
def Row.selects {n : Nat} (r : Row n) (c : BitVec n) : Bool := c &&& r.mask == r.bits

/-- The message byte `cmd[7:0]` of ABSORB (R94). -/
def operandByte (c : CmdWord) : BitVec 8 := c.extractLsb' 0 8

/-- The word index `cmd[2:0]` of RDH (R94). -/
def operandWordIndex (c : CmdWord) : BitVec 3 := c.extractLsb' 0 3

/-- The byte index `cmd[4:0]` of RDDIG (R94). -/
def operandByteIndex (c : CmdWord) : BitVec 5 := c.extractLsb' 0 5

/-- The character index `cmd[5:0]` of RDHEX (R94). -/
def operandCharIndex (c : CmdWord) : BitVec 6 := c.extractLsb' 0 6

/-- The opcode map of the commands (R95). -/
def cmdRows : List (Row 16) :=
  [ ⟨0xffff, 0x1000, fun _ => .init⟩,
    ⟨0xff00, 0x2000, fun c => .absorb (operandByte c)⟩,
    ⟨0xffff, 0x3000, fun _ => .final⟩,
    ⟨0xffff, 0x4000, fun _ => .rdstat⟩,
    ⟨0xfff8, 0x5000, fun c => .rdh (operandWordIndex c)⟩,
    ⟨0xffe0, 0x6000, fun c => .rddig (operandByteIndex c)⟩,
    ⟨0xffc0, 0x7000, fun c => .rdhex (operandCharIndex c)⟩ ]

/-- The opcode map of the micro-operations (R96). -/
def selRows : List (Row 8) :=
  [ ⟨0xfc, 0x40, fun _ => .wload⟩,
    ⟨0xfc, 0x44, fun _ => .wext⟩,
    ⟨0xfc, 0x48, fun _ => .vinit⟩,
    ⟨0xfc, 0x4c, fun _ => .round⟩,
    ⟨0xfc, 0x50, fun _ => .hfold⟩,
    ⟨0xe3, 0x60, fun _ => .pad80⟩,
    ⟨0xe3, 0x61, fun _ => .pad00⟩,
    ⟨0xe3, 0x62, fun _ => .padlen⟩ ]

/-- Decode of a command word (R95, R97). -/
def decodeCmd (c : CmdWord) : Except DecodeError Instr :=
  match cmdRows.find? (fun r => r.selects c) with
  | some r => .ok (r.build c)
  | none => .error (.illegalCommand c)

/-- Decode of a selector word (R96, R99). -/
def decodeSel (sw : SelWord) : Except DecodeError Instr :=
  match selRows.find? (fun r => r.selects sw) with
  | some r => .ok (r.build sw)
  | none => .error (.noMicroOperation sw)

/-- `Legal(c)`, written as R97 writes it, from the fields `op = c[15:12]`, `z = c[11:8]`, `x = c[7:0]`. -/
def legal (c : CmdWord) : Bool :=
  let op : BitVec 4 := c.extractLsb' 12 4
  let z : BitVec 4 := c.extractLsb' 8 4
  let x : BitVec 8 := c.extractLsb' 0 8
  z == 0 &&
    (op == 1 && x == 0
      || op == 2
      || op == 3 && x == 0
      || op == 4 && x == 0
      || op == 5 && x.extractLsb' 3 5 == 0
      || op == 6 && x.extractLsb' 5 3 == 0
      || op == 7 && x.extractLsb' 6 2 == 0)

/-- A word in one of the two formats (R90). -/
inductive Encoded where
  /-- A command word. -/
  | cmd (c : CmdWord)
  /-- A selector word. -/
  | sel (sw : SelWord)
  deriving DecidableEq, Repr

/-- Decode of a word in its format. -/
def decode : Encoded → Except DecodeError Instr
  | .cmd c => decodeCmd c
  | .sel sw => decodeSel sw

/-- The encoder, from the patterns of R95 and R96. DESIGN CHOICE (log 17): the selector bits a micro-operation ignores
(`pp`, `sss`) are encoded as zeros; every other value of them decodes the same. -/
def encode : Instr → Encoded
  | .init => .cmd 0x1000
  | .absorb b => .cmd (0x20#8 ++ b)
  | .final => .cmd 0x3000
  | .rdstat => .cmd 0x4000
  | .rdh i => .cmd (0x0a00#13 ++ i)
  | .rddig i => .cmd (0x300#11 ++ i)
  | .rdhex j => .cmd (0x1c0#10 ++ j)
  | .wload => .sel 0x40
  | .wext => .sel 0x44
  | .vinit => .sel 0x48
  | .round => .sel 0x4c
  | .hfold => .sel 0x50
  | .pad80 => .sel 0x60
  | .pad00 => .sel 0x61
  | .padlen => .sel 0x62

/-- The instruction this decoder reads from an instruction of `nbits` bits whose value is `w`: a 16-bit command word or an
8-bit selector word. Each is one whole word (R90, R91 "sampled whole"), so no byte order enters. -/
def decodeTableWord (nbits w : Nat) : Option Instr :=
  if nbits = 16 then
    if w < 2 ^ 16 then (decodeCmd (BitVec.ofNat 16 w)).toOption else none
  else if nbits = 8 then
    if w < 2 ^ 8 then (decodeSel (BitVec.ofNat 8 w)).toOption else none
  else none

end Sys2Proof
end

