-- ==== Sys2Proof/Machine/Functions.lean ====
section
/-! DEFINITION. The word functions of the compressor (spec 41_compressor R143 to R149) and the two sums of a round (R153).
PRESUMED (log 10): the spec supplies the formulas from general knowledge and marks them so. -/

namespace Sys2Proof.Machine

/-- `ROTR(x, n)`, rotate right, for `0 < n < 32` (R143). -/
def rotr (x : Word) (n : Nat) : Word := (x >>> n) ||| (x <<< (32 - n))

/-- `SHR(x, n)`, logical shift right, for `0 < n < 32` (R143). -/
def shr (x : Word) (n : Nat) : Word := x >>> n

/-- `Ch(x, y, z)`, choose (R144). -/
def ch (x y z : Word) : Word := (x &&& y) ^^^ (~~~x &&& z)

/-- `Maj(x, y, z)`, majority (R145). -/
def maj (x y z : Word) : Word := (x &&& y) ^^^ (x &&& z) ^^^ (y &&& z)

/-- `BSIG0(x)` (R146). -/
def bsig0 (x : Word) : Word := rotr x 2 ^^^ rotr x 13 ^^^ rotr x 22

/-- `BSIG1(x)` (R147). -/
def bsig1 (x : Word) : Word := rotr x 6 ^^^ rotr x 11 ^^^ rotr x 25

/-- `SSIG0(x)` (R148). -/
def ssig0 (x : Word) : Word := rotr x 7 ^^^ rotr x 18 ^^^ shr x 3

/-- `SSIG1(x)` (R149). -/
def ssig1 (x : Word) : Word := rotr x 17 ^^^ rotr x 19 ^^^ shr x 10

/-- The schedule word derived from `W[t-2]`, `W[t-7]`, `W[t-15]` and `W[t-16]`, modulo 2^32 (R151). -/
def extendWord (w2 w7 w15 w16 : Word) : Word := ssig1 w2 + w7 + ssig0 w15 + w16

/-- `T1` of a round: `h + BSIG1(e) + Ch(e, f, g) + K[t] + W[t]`, modulo 2^32 (R153). -/
def roundT1 (e f g h k w : Word) : Word := h + bsig1 e + ch e f g + k + w

/-- `T2` of a round: `BSIG0(a) + Maj(a, b, c)`, modulo 2^32 (R153). -/
def roundT2 (a b c : Word) : Word := bsig0 a + maj a b c

end Sys2Proof.Machine
end

