-- ==== Sys2Proof/Machine/Constants.lean ====
section
/-! DEFINITION. The constant tables of the SHA-256 CORE (spec 10_state R37, R38): IV (41_compressor R141), K (R142) and HEXROM
(43_hex_encoder R180). No command or micro-operation writes them. PRESUMED (log 10): the spec itself supplies the values of
K and the ASCII codes from general knowledge and marks them so; its guard is the source's "abc" digest. -/

namespace Sys2Proof.Machine

/-- `IV[0..7]`, the initial running state (R141). -/
def iv : Vector Word 8 :=
  #v[0x6a09e667, 0xbb67ae85, 0x3c6ef372, 0xa54ff53a, 0x510e527f, 0x9b05688c, 0x1f83d9ab, 0x5be0cd19]

/-- `K[0]` to `K[7]` (R142). -/
def kRow0 : List Word :=
  [0x428a2f98, 0x71374491, 0xb5c0fbcf, 0xe9b5dba5, 0x3956c25b, 0x59f111f1, 0x923f82a4, 0xab1c5ed5]

/-- `K[8]` to `K[15]` (R142). -/
def kRow1 : List Word :=
  [0xd807aa98, 0x12835b01, 0x243185be, 0x550c7dc3, 0x72be5d74, 0x80deb1fe, 0x9bdc06a7, 0xc19bf174]

/-- `K[16]` to `K[23]` (R142). -/
def kRow2 : List Word :=
  [0xe49b69c1, 0xefbe4786, 0x0fc19dc6, 0x240ca1cc, 0x2de92c6f, 0x4a7484aa, 0x5cb0a9dc, 0x76f988da]

/-- `K[24]` to `K[31]` (R142). -/
def kRow3 : List Word :=
  [0x983e5152, 0xa831c66d, 0xb00327c8, 0xbf597fc7, 0xc6e00bf3, 0xd5a79147, 0x06ca6351, 0x14292967]

/-- `K[32]` to `K[39]` (R142). -/
def kRow4 : List Word :=
  [0x27b70a85, 0x2e1b2138, 0x4d2c6dfc, 0x53380d13, 0x650a7354, 0x766a0abb, 0x81c2c92e, 0x92722c85]

/-- `K[40]` to `K[47]` (R142). -/
def kRow5 : List Word :=
  [0xa2bfe8a1, 0xa81a664b, 0xc24b8b70, 0xc76c51a3, 0xd192e819, 0xd6990624, 0xf40e3585, 0x106aa070]

/-- `K[48]` to `K[55]` (R142). -/
def kRow6 : List Word :=
  [0x19a4c116, 0x1e376c08, 0x2748774c, 0x34b0bcb5, 0x391c0cb3, 0x4ed8aa4a, 0x5b9cca4f, 0x682e6ff3]

/-- `K[56]` to `K[63]` (R142). -/
def kRow7 : List Word :=
  [0x748f82ee, 0x78a5636f, 0x84c87814, 0x8cc70208, 0x90befffa, 0xa4506ceb, 0xbef9a3f7, 0xc67178f2]

/-- `K[0..63]`, the round constants (R142). -/
def kTable : List Word := kRow0 ++ kRow1 ++ kRow2 ++ kRow3 ++ kRow4 ++ kRow5 ++ kRow6 ++ kRow7

/-- `K[t]`. The table has 64 entries, so the default is never read. -/
def kAt (t : BitVec 6) : Word := kTable.getD t.toNat 0

/-- `HEXROM[0..15]`, the codes of the characters 0-9a-f (R180). -/
def hexRom : List Byte :=
  [0x30, 0x31, 0x32, 0x33, 0x34, 0x35, 0x36, 0x37, 0x38, 0x39] ++ [0x61, 0x62, 0x63, 0x64, 0x65, 0x66]

/-- `HEXROM[n]`. The table has 16 entries, so the default is never read. -/
def hexRomAt (n : BitVec 4) : Byte := hexRom.getD n.toNat 0

end Sys2Proof.Machine
end

