-- ==== Sys2Proof/Machine/Codes.lean ====
section
/-! DEFINITION. The codes of the control registers: PHASE (spec 10_state R27), STAGE (R28), PS (R33) and the fault codes
(R35, 60_exceptions R210). The codes no rule ever writes (PHASE 6, 7; STAGE 5, 6, 7; FCODE 4 to 15) have no name. -/

namespace Sys2Proof.Machine

/-- After reset; no hash begun. -/
abbrev Phase.idle : BitVec 3 := 0
/-- A hash is open; message bytes are accepted. -/
abbrev Phase.absorb : BitVec 3 := 1
/-- The sequencer is compressing the full buffer. -/
abbrev Phase.compress : BitVec 3 := 2
/-- The sequencer is appending padding bytes. -/
abbrev Phase.pad : BitVec 3 := 3
/-- The digest is valid and readable. -/
abbrev Phase.done : BitVec 3 := 4
/-- A fault was taken; sticky until reset. -/
abbrev Phase.fault : BitVec 3 := 5

/-- The stages of COMPRESS (R28). -/
abbrev Stage.wload : BitVec 3 := 0
abbrev Stage.wext : BitVec 3 := 1
abbrev Stage.vinit : BitVec 3 := 2
abbrev Stage.round : BitVec 3 := 3
abbrev Stage.hfold : BitVec 3 := 4

/-- The pad stages (R33): the byte 0x80 is due; zero bytes are due; length bytes are due; the last has been appended. -/
abbrev PadStage.mark : BitVec 2 := 0
abbrev PadStage.zero : BitVec 2 := 1
abbrev PadStage.length : BitVec 2 := 2
abbrev PadStage.ended : BitVec 2 := 3

/-- The three faults the CORE raises (60_exceptions R210). A fault is a next state of the machine, not an end of the run. -/
inductive Cause where
  /-- R211: the word is not one of the 363 legal words. -/
  | illegalCmd
  /-- R212: the phase does not admit the command. -/
  | badPhase
  /-- R213: the message already has 2^64 - 8 bits. -/
  | lenOverflow
  deriving DecidableEq, Repr

/-- The code a fault leaves in FCODE (R35, R210). -/
def Cause.code : Cause → BitVec 4
  | .illegalCmd => 1
  | .badPhase => 2
  | .lenOverflow => 3

end Sys2Proof.Machine
end

