-- ==== Sys2Proof/Machine/State.lean ====
section
/-! DEFINITION. The state of one CORE (spec 10_state R20: "the following and nothing else"), the command port as plain data
(70_reset_and_hazards R244), the ways a step can stop, and the state after reset (R44, R240). -/

namespace Sys2Proof.Machine

/-- A register that can hold NOVALUE (spec 00_scope R12, 10_state R42): its bits, and the mark whether anything has written
it since reset. `written = false` is the spec's NOVALUE; the bits beside it are the model's (log 1), and no instruction
looks at the mark. -/
structure Reg (n : Nat) where
  val : BitVec n
  written : Bool
  deriving DecidableEq, Repr

/-- NOVALUE. DESIGN CHOICE (log 1): the bits are zero. Unsafe: the spec promises no reset content. -/
def Reg.noValue {n : Nat} : Reg n := ⟨0, false⟩

/-- A register after a write. -/
def Reg.wrote {n : Nat} (x : BitVec n) : Reg n := ⟨x, true⟩

/-- A command word the host offers at the port until it is accepted (70_reset R244, `cmd_valid` and `cmd`), and the reset
line in the steps to come for as long as the word is still offered: the first entry is the next such step, and after the
last one reset is not asserted any more (log 3). -/
structure Offer where
  word : CmdWord
  resets : List Bool
  deriving DecidableEq, Repr

/-- What the host does at the port in one step (70_reset R244, R240): whether it asserts reset, and what it offers, if
anything. -/
structure HostInput where
  reset : Bool
  offer : Option Offer
  deriving DecidableEq, Repr

/-- One CORE. `h`, `v`, `w`, `b`, `len`, `fill`, `phase`, `stage`, `t`, `fin`, `ps`, `lk`, `fcode` are the registers of R20.
`host` and `rsp` are the port: the host inputs still to come, the first one being what the host does now (log 3), and the
response word of the step just taken (30_encoding R93, log 4). -/
structure State where
  /-- `H[0..7]`, the running state (R22). -/
  h : Vector (Reg 32) 8
  /-- `V[0..7]` = `a..h`, the working variables (R23). -/
  v : Vector (Reg 32) 8
  /-- `W[0..63]`, the message schedule (R24). -/
  w : Vector (Reg 32) 64
  /-- `B[0..63]`, the block buffer (R36). -/
  b : Vector (Reg 8) 64
  /-- `LEN`, the message bits absorbed since INIT (R31). -/
  len : Reg 64
  /-- `FILL`, the bytes of the current block in `B` (R32). -/
  fill : BitVec 6
  /-- `PHASE` (R27). -/
  phase : BitVec 3
  /-- `STAGE` (R28). -/
  stage : Reg 3
  /-- `T`, word or round index (R29). -/
  t : Reg 6
  /-- `FIN`, finalising (R33). -/
  fin : Reg 1
  /-- `PS`, pad stage (R33). -/
  ps : Reg 2
  /-- `LK`, length byte index (R33). -/
  lk : Reg 3
  /-- `FCODE`, fault code (R35). -/
  fcode : BitVec 4
  /-- The host inputs still to come, one a step; a held command stays at the head until it is accepted (R244). -/
  host : List HostInput
  /-- The response word of the step just taken; `none` when it gave none (00_scope R14). -/
  rsp : Option Word
  deriving DecidableEq, Repr

/-- A step that stops: the machine has no next state. The spec's own faults are next states (00_scope R14) and are not
here. Every reason here is for states that no run from reset reaches (10_state R45). -/
inductive Fault where
  /-- Raised by the sequencer's step in PHASE COMPRESS or PAD when the selector word matches no row (30_encoding R99: "A
  model gives the sequencer no step there (stuck)"). Safe: the spec asks for it. -/
  | noMicroOperation (sw : SelWord)
  /-- Raised in PHASE 6 or 7 by the step and by every command ("nobody; unreachable", 10_state R27; stuck,
  93_implementation_defined U8). Safe: nothing goes on. -/
  | noAgent (phase : BitVec 3)
  /-- Raised by WEXT when `T` is below 16 (its operand is 16..63, 41_compressor R151; no element `W[T-16]` exists). Safe:
  the model stops. -/
  | scheduleIndex (t : BitVec 6)
  deriving DecidableEq, Repr

/-- A step with no meaning in the model. -/
inductive Refusal where
  /-- Raised by `exec` for an instruction not modelled yet, by its mnemonic. Safe: nothing is claimed. -/
  | notModelled (mnemonic : String)
  deriving DecidableEq, Repr

/-- The state right after the reset event (10_state R44 left column, 70_reset R240): `PHASE`, `FCODE` and `FILL` are 0, every
other register holds NOVALUE; nothing is offered at the port and no response stands on it. -/
def State.reset : State where
  h := Vector.ofFn fun _ => Reg.noValue
  v := Vector.ofFn fun _ => Reg.noValue
  w := Vector.ofFn fun _ => Reg.noValue
  b := Vector.ofFn fun _ => Reg.noValue
  len := Reg.noValue
  fill := 0
  phase := Phase.idle
  stage := Reg.noValue
  t := Reg.noValue
  fin := Reg.noValue
  ps := Reg.noValue
  lk := Reg.noValue
  fcode := 0
  host := []
  rsp := none

end Sys2Proof.Machine
end

