-- ==== Sys2Proof/Machine/Operands.lean ====
section
/-! DEFINITION. How the register files are read, at every width the spec gives (20_memory R61, R68, R70): words of H, V and W,
bytes and big-endian words of the block buffer, bytes of LEN, and the digest and hex views of H. -/

namespace Sys2Proof.Machine

/-- `H[i]` (R22). -/
def State.hWord (s : State) (i : BitVec 3) : Word := (s.h[i.toNat]'i.isLt).val

/-- `V[i]` (R23). -/
def State.vWord (s : State) (i : BitVec 3) : Word := (s.v[i.toNat]'i.isLt).val

/-- `W[t]` (R24). -/
def State.wWord (s : State) (t : BitVec 6) : Word := (s.w[t.toNat]'t.isLt).val

/-- `B[i]` (R36). -/
def State.bByte (s : State) (i : BitVec 6) : Byte := (s.b[i.toNat]'i.isLt).val

/-- `MemRead(B, 4i, 4)`: four bytes of the buffer, `B[4i]` most significant (00_scope R11, 20_memory R64). -/
def State.blockWord (s : State) (i : BitVec 4) : Word :=
  s.bByte (i ++ 0#2) ++ s.bByte (i ++ 1#2) ++ s.bByte (i ++ 2#2) ++ s.bByte (i ++ 3#2)

/-- Length byte `k`: `LEN[63 - 8k : 56 - 8k]`, `k = 0` the most significant (40_padder R128, 20_memory R65). -/
def lengthByte (len : BitVec 64) (k : BitVec 3) : Byte := len.extractLsb' (56 - 8 * k.toNat) 8

/-- Byte `r` of a state word: `w[31 - 8r : 24 - 8r]`, `r = 0` the most significant (42_digest_assembler R170). -/
def wordByte (w : Word) (r : BitVec 2) : Byte := w.extractLsb' (24 - 8 * r.toNat) 8

/-- `DIG[i]`, the digest view of H: word `i div 4`, byte `i mod 4` (10_state R39, R170). -/
def State.dig (s : State) (i : BitVec 5) : Byte := wordByte (s.hWord (i.extractLsb' 2 3)) (i.extractLsb' 0 2)

/-- The nibble of `DIG[j div 2]` that character `j` shows: the high one for even `j` (43_hex_encoder R181). -/
def State.hexNibble (s : State) (j : BitVec 6) : BitVec 4 :=
  let d := s.dig (j.extractLsb' 1 5)
  if j.extractLsb' 0 1 = 0 then d.extractLsb' 4 4 else d.extractLsb' 0 4

/-- `HEX[j]`, the hex view of the digest (10_state R40, R181). -/
def State.hex (s : State) (j : BitVec 6) : Byte := hexRomAt (s.hexNibble j)

end Sys2Proof.Machine
end

