-- ==== Sys2Proof/Machine/Flags.lean ====
section
/-! DEFINITION. The flags and control views, all computed from the state and none of them storage (spec 10_state R30, R34,
R41; 70_reset R244): DV, FLT, the status word, the selector word and `cmd_ready`. The hardware has no condition codes (R30). -/

namespace Sys2Proof.Machine

/-- `DV`, digest valid: 1 exactly in phase DONE (R30). -/
def State.dv (s : State) : BitVec 1 := if s.phase = Phase.done then 1 else 0

/-- `FLT`, faulted: 1 exactly in phase FAULT (R30). -/
def State.flt (s : State) : BitVec 1 := if s.phase = Phase.fault then 1 else 0

/-- `Status()`, by the formula of R34. -/
def State.status (s : State) : Word :=
  s.phase.setWidth 32 ||| (s.dv.setWidth 32 <<< 3) ||| (s.flt.setWidth 32 <<< 4)
    ||| (s.fcode.setWidth 32 <<< 8) ||| (s.fill.setWidth 32 <<< 16)

/-- The selector word `sw = PHASE ‖ STAGE ‖ PS` (R41). -/
def State.sw (s : State) : SelWord := s.phase ++ s.stage.val ++ s.ps.val

/-- `cmd_ready`: the port accepts a command exactly in IDLE, ABSORB, DONE and FAULT (70_reset R244). -/
def cmdReady (phase : BitVec 3) : Bool :=
  phase == Phase.idle || phase == Phase.absorb || phase == Phase.done || phase == Phase.fault

/-- The sequencer has a step exactly in COMPRESS and PAD (00_scope R13). -/
def seqBusy (phase : BitVec 3) : Bool := phase == Phase.compress || phase == Phase.pad

end Sys2Proof.Machine
end

