-- ==== Sys2Proof/Machine/Ops.lean ====
section
/-! DEFINITION. The named operations every meaning is written in: one write per register, `seq` (spec 00_scope R12), the
responses (30_encoding R93), fault entry (60_exceptions R215), the reset event (70_reset R240), the byte path `BufAppend`
(40_padder R123), and the phase check every command begins with (30_encoding R100). There is no return from a fault: only
the reset event leaves phase FAULT (60_exceptions R216). -/

namespace Sys2Proof.Machine

/-- Write all eight words of H. -/
def State.setH (s : State) (f : Vector (Reg 32) 8) : State := { s with h := f }

/-- Write all eight words of V. -/
def State.setV (s : State) (f : Vector (Reg 32) 8) : State := { s with v := f }

/-- Write the schedule. -/
def State.setW (s : State) (f : Vector (Reg 32) 64) : State := { s with w := f }

/-- Write the block buffer. -/
def State.setB (s : State) (f : Vector (Reg 8) 64) : State := { s with b := f }

/-- `LEN <- x`. -/
def State.setLen (s : State) (x : BitVec 64) : State := { s with len := Reg.wrote x }

/-- `FILL <- x`. -/
def State.setFill (s : State) (x : BitVec 6) : State := { s with fill := x }

/-- `PHASE <- x`. -/
def State.setPhase (s : State) (x : BitVec 3) : State := { s with phase := x }

/-- `STAGE <- x`. -/
def State.setStage (s : State) (x : BitVec 3) : State := { s with stage := Reg.wrote x }

/-- `T <- x`. -/
def State.setT (s : State) (x : BitVec 6) : State := { s with t := Reg.wrote x }

/-- `FIN <- x`. -/
def State.setFin (s : State) (x : BitVec 1) : State := { s with fin := Reg.wrote x }

/-- `PS <- x`. -/
def State.setPs (s : State) (x : BitVec 2) : State := { s with ps := Reg.wrote x }

/-- `LK <- x`. -/
def State.setLk (s : State) (x : BitVec 3) : State := { s with lk := Reg.wrote x }

/-- `FCODE <- x`. -/
def State.setFcode (s : State) (x : BitVec 4) : State := { s with fcode := x }

/-- The host inputs still to come. -/
def State.setHost (s : State) (x : List HostInput) : State := { s with host := x }

/-- The response word of the step. -/
def State.setRsp (s : State) (x : Option Word) : State := { s with rsp := x }

/-- `MemWrite(B, i, 1, x)`: `B[i] <- x` (00_scope R11). -/
def State.writeByte (s : State) (i : BitVec 6) (x : Byte) : State :=
  s.setB (s.b.set i.toNat (Reg.wrote x) i.isLt)

/-- `W[t] <- x`. -/
def State.writeSchedule (s : State) (t : BitVec 6) (x : Word) : State :=
  s.setW (s.w.set t.toNat (Reg.wrote x) t.isLt)

/-- `seq <- (p, st, t)`: this hardware's jump (00_scope R12). -/
def State.seq (s : State) (p st : BitVec 3) (t : BitVec 6) : State := ((s.setPhase p).setStage st).setT t

/-- A command answers with a response word (30_encoding R93). -/
def State.respond (s : State) (x : Word) : State := s.setRsp (some x)

/-- A command answers with the status of the state it leaves (30_encoding R93). -/
def State.respondStatus (s : State) : State := s.respond s.status

/-- A step that gives no response: every step of the sequencer (00_scope R14), a reset, and a step in which nothing moves. -/
def State.silent (s : State) : State := s.setRsp none

/-- Fault entry, `raise F` (60_exceptions R215): `PHASE <- FAULT`, `FCODE <- n`, answer `Status()`, "and nothing else". -/
def State.raise (s : State) (c : Cause) : State := ((s.setPhase Phase.fault).setFcode c.code).respondStatus

/-- The reset event (70_reset R240): every register as after reset, whatever was going on. What the host offers is not the
CORE's and stays. -/
def State.resetEvent (s : State) : State := State.reset.setHost s.host

/-- `BufAppend(x)`, the one way a byte enters the buffer (40_padder R123). -/
def State.bufAppend (s : State) (x : Byte) : State :=
  if s.fill = 63 then ((s.writeByte s.fill x).setFill 0).seq Phase.compress Stage.wload 0
  else (s.writeByte s.fill x).setFill (s.fill + 1)

/-- The step a command word takes once decoded, up to its own rule (30_encoding R100; 60_exceptions R212, R217, R218;
70_reset R244): in phase FAULT it answers the status and changes nothing; while the sequencer is busy it is held and changes
nothing; in a phase that does not admit it, BAD_PHASE; else its own effect `body`. PHASE 6 and 7 have no agent (10_state R27).
The port itself never offers a command to a meaning while the sequencer is busy (Machine/Port.lean). -/
def command (admitted : BitVec 3 → Bool) (body : State → State) (s : State) :
    Host.Outcome State Fault Refusal :=
  if s.phase = Phase.fault then .next s.respondStatus
  else if seqBusy s.phase then .next s.silent
  else if !cmdReady s.phase then .fault (.noAgent s.phase)
  else if admitted s.phase then .next (body s)
  else .next (s.raise .badPhase)

end Sys2Proof.Machine
end

