-- ==== Sys2Proof/Machine/Compressor.lean ====
section
/-! DEFINITION. The compressor: WLOAD, WEXT, VINIT, ROUND, HFOLD (spec 41_compressor R150 to R154). No micro-operation
checks the phase: the sequencer selects it by the selector word (30_encoding R96; log 19). -/

namespace Sys2Proof.Machine

/-- WLOAD: load the block into the first sixteen schedule words (R150); `W[16..63]` are unchanged. -/
def execWload (s : State) : Host.Outcome State Fault Refusal :=
  .next (((s.setW (Vector.ofFn fun i =>
    if i.val < 16 then Reg.wrote (s.blockWord (BitVec.ofNat 4 i.val)) else s.w[i])).seq
      Phase.compress Stage.wext 16).silent)

/-- WEXT: derive schedule word `W[T]` (R151). Its operand is 16..63; below 16 the model stops (log 8). -/
def execWext (s : State) : Host.Outcome State Fault Refusal :=
  let t := s.t.val
  if t < 16 then .fault (.scheduleIndex t)
  else
    let extended :=
      s.writeSchedule t (extendWord (s.wWord (t - 2)) (s.wWord (t - 7)) (s.wWord (t - 15)) (s.wWord (t - 16)))
    .next (if t = 63 then (extended.seq Phase.compress Stage.vinit 0).silent else (extended.setT (t + 1)).silent)

/-- VINIT: copy the running state into the working variables (R152). -/
def execVinit (s : State) : Host.Outcome State Fault Refusal :=
  .next (((s.setV (Vector.ofFn fun i => Reg.wrote s.h[i].val)).seq Phase.compress Stage.round 0).silent)

/-- The working variables after round `t`, from those before it, with schedule word `w` (R153): all eight written together. -/
def roundVars (s : State) (k w : Word) : Vector (Reg 32) 8 :=
  let t1 := roundT1 (s.vWord 4) (s.vWord 5) (s.vWord 6) (s.vWord 7) k w
  let t2 := roundT2 (s.vWord 0) (s.vWord 1) (s.vWord 2)
  #v[Reg.wrote (t1 + t2), Reg.wrote (s.vWord 0), Reg.wrote (s.vWord 1), Reg.wrote (s.vWord 2),
    Reg.wrote (s.vWord 3 + t1), Reg.wrote (s.vWord 4), Reg.wrote (s.vWord 5), Reg.wrote (s.vWord 6)]

/-- ROUND: one round of the round function, round `T` (R153). -/
def execRound (s : State) : Host.Outcome State Fault Refusal :=
  let t := s.t.val
  let turned := s.setV (roundVars s (kAt t) (s.wWord t))
  .next (if t = 63 then (turned.seq Phase.compress Stage.hfold 0).silent else (turned.setT (t + 1)).silent)

/-- The phase after HFOLD (R154). -/
def phaseAfterFold (fin : BitVec 1) (ps : BitVec 2) : BitVec 3 :=
  if fin = 0 then Phase.absorb else if ps = PadStage.ended then Phase.done else Phase.pad

/-- HFOLD: add the working variables back into the running state and leave the compressor (R154). -/
def execHfold (s : State) : Host.Outcome State Fault Refusal :=
  .next (((s.setH (Vector.ofFn fun i => Reg.wrote (s.h[i].val + s.v[i].val))).seq
    (phaseAfterFold s.fin.val s.ps.val) 0 0).silent)

end Sys2Proof.Machine
end

