-- ==== Sys2Proof/Machine/Control.lean ====
section
/-! DEFINITION. The control commands INIT and RDSTAT (spec 44_entry_point R190, R191). -/

namespace Sys2Proof.Machine

/-- INIT: begin a new hash (R190). Admitted in IDLE, ABSORB and DONE; `V`, `W` and `B` are not written. -/
def execInit (s : State) : Host.Outcome State Fault Refusal :=
  command (fun p => p == Phase.idle || p == Phase.absorb || p == Phase.done)
    (fun s =>
      (((((((s.setH (Vector.ofFn fun i => Reg.wrote iv[i])).setLen 0).setFill 0).setFin 0).setPs 0).setLk 0).seq
        Phase.absorb 0 0).respondStatus)
    s

/-- RDSTAT: read the status word (R191). Admitted in every phase in which a command is accepted. -/
def execRdstat (s : State) : Host.Outcome State Fault Refusal :=
  command (fun p => p == Phase.idle || p == Phase.absorb || p == Phase.done) (fun s => s.respondStatus) s

end Sys2Proof.Machine
end

