-- ==== Sys2Proof/Machine/Digest.lean ====
section
/-! DEFINITION. The digest assembler's read commands RDH and RDDIG (spec 42_digest_assembler R171, R172). -/

namespace Sys2Proof.Machine

/-- RDH `i`: read one word of the running state (R171). Admitted in ABSORB and DONE. -/
def execRdh (i : BitVec 3) (s : State) : Host.Outcome State Fault Refusal :=
  command (fun p => p == Phase.absorb || p == Phase.done) (fun s => s.respond (s.hWord i)) s

/-- RDDIG `i`: read one byte of the digest (R172). Admitted in DONE only. -/
def execRddig (i : BitVec 5) (s : State) : Host.Outcome State Fault Refusal :=
  command (fun p => p == Phase.done) (fun s => s.respond ((s.dig i).setWidth 32)) s

end Sys2Proof.Machine
end

