-- ==== Sys2Proof/Machine/Hex.lean ====
section
/-! DEFINITION. The hex encoder's read command RDHEX (spec 43_hex_encoder R182). -/

namespace Sys2Proof.Machine

/-- RDHEX `j`: read one character of the hex string (R182). Admitted in DONE only. -/
def execRdhex (j : BitVec 6) (s : State) : Host.Outcome State Fault Refusal :=
  command (fun p => p == Phase.done) (fun s => s.respond ((s.hex j).setWidth 32)) s

end Sys2Proof.Machine
end

