-- ==== Sys2Proof/Machine/Padder.lean ====
section
/-! DEFINITION. The padding engine: ABSORB, FINAL, PAD80, PAD00, PADLEN (spec 40_padder R123 to R128). -/

namespace Sys2Proof.Machine

/-- The value of LEN at which no further byte fits: 2^64 - 8 (R124, 60_exceptions R213). -/
def lastLen : BitVec 64 := 0xfffffffffffffff8

/-- ABSORB `b`: append one message byte (R124). Admitted in ABSORB only; at `LEN = 2^64 - 8` it raises LEN_OVERFLOW. -/
def execAbsorb (b : Byte) (s : State) : Host.Outcome State Fault Refusal :=
  command (fun p => p == Phase.absorb)
    (fun s =>
      if s.len.val = lastLen then s.raise .lenOverflow
      else ((s.setLen (s.len.val + 8)).bufAppend b).respondStatus)
    s

/-- FINAL: end the message and start the padder (R125). Admitted in ABSORB only. -/
def execFinal (s : State) : Host.Outcome State Fault Refusal :=
  command (fun p => p == Phase.absorb)
    (fun s => ((((s.setFin 1).setPs PadStage.mark).setLk 0).setPhase Phase.pad).respondStatus)
    s

/-- The pad stage after a marker or zero byte: LENGTH when the fill level has reached 56, else ZERO (R126, R127). -/
def padStageAt (fill : BitVec 6) : BitVec 2 := if fill = 56 then PadStage.length else PadStage.zero

/-- PAD80: append the marker byte (R126). -/
def execPad80 (s : State) : Host.Outcome State Fault Refusal :=
  .next (((s.bufAppend 0x80).setPs (padStageAt (s.bufAppend 0x80).fill)).silent)

/-- PAD00: append one zero byte (R127). -/
def execPad00 (s : State) : Host.Outcome State Fault Refusal :=
  .next (((s.bufAppend 0x00).setPs (padStageAt (s.bufAppend 0x00).fill)).silent)

/-- PADLEN: append length byte `LK` (R128). -/
def execPadlen (s : State) : Host.Outcome State Fault Refusal :=
  let appended := s.bufAppend (lengthByte s.len.val s.lk.val)
  .next (if s.lk.val = 7 then (appended.setPs PadStage.ended).silent else (appended.setLk (s.lk.val + 1)).silent)

end Sys2Proof.Machine
end

