-- ==== Sys2Proof/Machine/Dispatch.lean ====
section
/-! DEFINITION. The meaning of every instruction, one arm a constructor. -/

namespace Sys2Proof.Machine

def exec (i : Instr) (s : State) : Host.Outcome State Fault Refusal :=
  match i with
  | .init => Sys2Proof.Machine.execInit s
  | .absorb b => Sys2Proof.Machine.execAbsorb b s
  | .final => Sys2Proof.Machine.execFinal s
  | .rdstat => Sys2Proof.Machine.execRdstat s
  | .rdh k => Sys2Proof.Machine.execRdh k s
  | .rddig k => Sys2Proof.Machine.execRddig k s
  | .rdhex j => Sys2Proof.Machine.execRdhex j s
  | .wload => Sys2Proof.Machine.execWload s
  | .wext => Sys2Proof.Machine.execWext s
  | .vinit => Sys2Proof.Machine.execVinit s
  | .round => Sys2Proof.Machine.execRound s
  | .hfold => Sys2Proof.Machine.execHfold s
  | .pad80 => Sys2Proof.Machine.execPad80 s
  | .pad00 => Sys2Proof.Machine.execPad00 s
  | .padlen => Sys2Proof.Machine.execPadlen s

end Sys2Proof.Machine
end

