-- ==== Sys2Proof/Machine/Port.lean ====
section
/-! DEFINITION. Who moves next (spec 00_scope R13): the command port, the hold (70_reset R244), the reset line (R240) and the
sequencer (30_encoding R96). The list `host` of the state says what the host does, one entry a step; a command that is not
accepted stays at its head, and the reset line may rise over it. -/

namespace Sys2Proof.Machine

/-- A step of the sequencer: decode the selector word and run the micro-operation; stuck when no row matches (30_encoding
R96, R99). -/
def seqStep (s : State) : Host.Outcome State Fault Refusal :=
  match decodeSel s.sw with
  | .ok i => exec i s
  | .error _ => .fault (.noMicroOperation s.sw)

/-- A step in which the port accepts nothing: the sequencer moves if it is busy; in IDLE, ABSORB, DONE and FAULT nothing
moves until the host acts (60_exceptions R228); in PHASE 6 and 7 nobody can (10_state R27). -/
def quietStep (s : State) : Host.Outcome State Fault Refusal :=
  if seqBusy s.phase then seqStep s
  else if cmdReady s.phase then .next s.silent
  else .fault (.noAgent s.phase)

/-- The port accepts a command word (30_encoding R100): in phase FAULT it is not decoded and is answered with the status
(R98, 60_exceptions R218); an illegal word raises ILLEGAL_CMD (R211); else the command runs. -/
def acceptStep (c : CmdWord) (s : State) : Host.Outcome State Fault Refusal :=
  if s.phase = Phase.fault then .next s.respondStatus
  else
    match decodeCmd c with
    | .ok i => exec i s
    | .error _ => .next (s.raise .illegalCmd)

/-- A command that was not accepted is still offered in the next step (70_reset R244, 44_entry_point R196), with the reset
line as the host then drives it. -/
def stillOffered (o : Offer) : HostInput :=
  match o.resets with
  | [] => ⟨false, some o⟩
  | r :: later => ⟨r, some ⟨o.word, later⟩⟩

/-- What the host still does after a step in which the port accepted nothing: an offered command stays offered, whether it
was held (70_reset R244) or beaten by reset (R240; log 18), and a moment with no offer passes. -/
def passed (host : List HostInput) : List HostInput :=
  match host with
  | [] => []
  | ⟨_, none⟩ :: rest => rest
  | ⟨_, some o⟩ :: rest => stillOffered o :: rest

/-- One step of the whole machine: reset wins over everything (70_reset R240, 60_exceptions R220); an offered command is
accepted when the port is ready, else held (R244); else the sequencer moves, or nothing does. A hold ends when the phase is
ready again or when reset is asserted (R244, "or reset"). -/
def portStep (s : State) : Host.Outcome State Fault Refusal :=
  match s.host with
  | [] => quietStep s
  | ⟨true, _⟩ :: _ => .next (s.setHost (passed s.host)).resetEvent
  | ⟨false, none⟩ :: _ => quietStep (s.setHost (passed s.host))
  | ⟨false, some o⟩ :: rest =>
    if cmdReady s.phase then acceptStep o.word (s.setHost rest) else quietStep (s.setHost (passed s.host))

/-- A command word placed at the port so that the next step accepts and runs it: it is offered now, with reset not asserted.
A phase in which the port would hold it or not decode it becomes ABSORB (log 13). -/
def placeCommand (s : State) (c : CmdWord) : State :=
  let ready := if cmdReady s.phase && s.phase != Phase.fault then s else s.setPhase Phase.absorb
  ready.setHost (⟨false, some ⟨c, []⟩⟩ :: s.host)

/-- A selector word placed in `PHASE`, `STAGE` and `PS` so that the next step runs its micro-operation: a reset waiting at
the port's head waits one step (log 13), and `T`, the operand of WEXT, is brought into that operand's range 16..63 (41_compressor R151)
if it is below. -/
def placeSelector (s : State) (sw : SelWord) : State :=
  let selected := ((s.setPhase (sw.extractLsb' 5 3)).setStage (sw.extractLsb' 2 3)).setPs (sw.extractLsb' 0 2)
  let ranged :=
    if sw.extractLsb' 2 6 = 0x11 && s.t.val < 16 then selected.setT 16 else selected
  match s.host with
  | ⟨true, _⟩ :: _ => ranged.setHost (⟨false, none⟩ :: s.host)
  | _ => ranged

end Sys2Proof.Machine
end

