-- ==== Sys2Proof/Machine/Step.lean ====
section
/-! DEFINITION. The step of the machine, and how a word of the opcode table is placed where the step takes its next
instruction. -/

namespace Sys2Proof.Machine

/-- One step of one CORE and its port (spec 00_scope R13, R14). -/
def step (s : State) : Host.Outcome State Fault Refusal := portStep s

/-- `s` with the instruction of `nbits` bits and value `w` where the next step takes its instruction: a 16-bit command word
at the command port, an 8-bit selector word in the registers that make up `sw`. -/
def State.withFetchWord (s : State) (nbits w : Nat) : State :=
  if nbits = 16 then placeCommand s (BitVec.ofNat 16 w) else placeSelector s (BitVec.ofNat 8 w)

end Sys2Proof.Machine
end

