-- ==== Sys2Proof/Config.lean ====
section
/-! DEFINITION. The parameters of spec 00_scope R6 (fixed by the source document), R7 (fixed by the interface) and R8 (left
open to the model as an argument). None of R6 and R7 is configurable. No free value stands here: the spec leaves no result
of an instruction open (93_implementation_defined section 1). -/

namespace Sys2Proof.Config

/-- R6 `BLOCK_BYTES`: bytes in a block. -/
def blockBytes : Nat := 64

/-- R6 `ROUNDS` and `SCHED_WORDS`: rounds a block, schedule words a block. -/
def rounds : Nat := 64

/-- R6 `PAD_RESIDUE`: the fill level, in bytes modulo 64, at which the length field starts. -/
def padResidue : Nat := 56

/-- R7 `MAX_MSG_BYTES`: the longest message the CORE hashes. -/
def maxMsgBytes : Nat := 2 ^ 61 - 1

/-- R7 `UOPS_PER_BLOCK`: 1 WLOAD, 48 WEXT, 1 VINIT, 64 ROUND, 1 HFOLD. -/
def uopsPerBlock : Nat := 115

/-- R8 `N_INSTANCES`, the one open parameter: its default. A system of any number of CORE copies takes the number as an
argument (Machine/System.lean). -/
def nCoresDefault : Nat := 1

end Sys2Proof.Config
end

