-- ==== Sys2Proof/Machine/Assembler.lean ====
section
/-! DEFINITION. The host's side as the spec describes it: the assembler notation (spec 30_encoding R101), the
pseudo-instructions (R102) and the commands of the procedure digestHex (44_entry_point R192), each turned into what the host
does at the port, one entry a step. The procedure itself, with its check of PHASE and its answer, is in
Machine/Procedure.lean. A line is a term here, its operands plain numbers as a programmer writes them; its spelling as text is
in Machine/Notation.lean. -/

namespace Sys2Proof.Machine

/-- A text as the host holds it: the bytes its own encoding gives, or `none` when it has no well-formed encoding
(44_entry_point R193, R195; log 14). -/
abbrev HostText := Option (List Byte)

/-- A line of the notation of R101 and R102. The micro-operations have no line: "they cannot be assembled, since the host
cannot issue them". -/
inductive Line where
  | init
  | absorb (b : Nat)
  | final
  | rdstat
  | rdh (i : Nat)
  | rddig (i : Nat)
  | rdhex (j : Nat)
  /-- `.word w`: the 16-bit word as it stands, legal or not. -/
  | word (w : Nat)
  /-- `RESET`: not a command word; the host asserts the reset event. -/
  | reset
  /-- `ABSORBW w`: the four bytes of a 32-bit value, most significant first. -/
  | absorbw (w : Nat)
  /-- `ABSORBS "text"`: one ABSORB a byte of the text's encoding. -/
  | absorbs (text : HostText)
  /-- `RDSTATE`: RDH 0 to RDH 7. -/
  | rdstate
  /-- `RDDIGEST`: RDDIG 0 to RDDIG 31. -/
  | rddigest
  /-- `RDHEXSTR`: RDHEX 0 to RDHEX 63. -/
  | rdhexstr
  /-- `HASH "text"`: the document's digestHex(text). -/
  | hash (text : HostText)
  deriving DecidableEq, Repr

/-- Why a line is not assembled. -/
inductive AsmError where
  /-- "An operand outside its range is an assembly error, not an encoding" (R101). -/
  | operandRange
  /-- The host's own error: the text has no well-formed encoding (44_entry_point R193, 60_exceptions R214). -/
  | invalidEncoding
  /-- The message is longer than 2^61 - 1 bytes (R192 "require"). -/
  | messageTooLong
  /-- The CORE is in phase FAULT when digestHex is called (R192 "require PHASE ≠ FAULT"). -/
  | faulted
  /-- The text is no line of the notation. -/
  | notALine
  deriving DecidableEq, Repr

/-- Whether the operand of a line is in its range (R101, R102). -/
def Line.wellFormed : Line → Bool
  | .absorb b => b < 256
  | .rdh i => i < 8
  | .rddig i => i < 32
  | .rdhex j => j < 64
  | .word w => w < 2 ^ 16
  | .absorbw w => w < 2 ^ 32
  | .init => true
  | .final => true
  | .rdstat => true
  | .reset => true
  | .absorbs _ => true
  | .rdstate => true
  | .rddigest => true
  | .rdhexstr => true
  | .hash _ => true

/-- The host offers a word at the port and does not assert reset while it is offered. -/
def offer (c : CmdWord) : HostInput := ⟨false, some ⟨c, []⟩⟩

/-- The host asserts reset and offers nothing. -/
def assertReset : HostInput := ⟨true, none⟩

/-- The command words of R101: opcode and operand. -/
def wordInit : CmdWord := 0x1000
def wordAbsorb (b : Byte) : CmdWord := 0x2000 ||| b.setWidth 16
def wordFinal : CmdWord := 0x3000
def wordRdstat : CmdWord := 0x4000
def wordRdh (i : Nat) : CmdWord := 0x5000 ||| BitVec.ofNat 16 i
def wordRddig (i : Nat) : CmdWord := 0x6000 ||| BitVec.ofNat 16 i
def wordRdhex (j : Nat) : CmdWord := 0x7000 ||| BitVec.ofNat 16 j

/-- One ABSORB a byte, in order (20_memory R75). -/
def absorbAll (m : List Byte) : List HostInput := m.map fun b => offer (wordAbsorb b)

/-- The 64 reads of the hex string, in order. -/
def readHex : List HostInput := (List.range 64).map fun j => offer (wordRdhex j)

/-- The commands of a hash up to FINAL: INIT, one ABSORB a byte, FINAL (R192). -/
def hashInputs (m : List Byte) : List HostInput := offer wordInit :: (absorbAll m ++ [offer wordFinal])

/-- The commands of `digestHex(text)` (R192, R102 HASH): none at all when the text has no well-formed encoding or the message
is too long. -/
def hashCommands (text : HostText) : Except AsmError (List HostInput) :=
  match text with
  | none => .error .invalidEncoding
  | some m => if m.length ≤ Config.maxMsgBytes then .ok (hashInputs m ++ readHex) else .error .messageTooLong

/-- A well-formed line turned into what the host does (R101, R102). -/
def expand : Line → Except AsmError (List HostInput)
  | .init => .ok [offer wordInit]
  | .absorb b => .ok [offer (wordAbsorb (BitVec.ofNat 8 b))]
  | .final => .ok [offer wordFinal]
  | .rdstat => .ok [offer wordRdstat]
  | .rdh i => .ok [offer (wordRdh i)]
  | .rddig i => .ok [offer (wordRddig i)]
  | .rdhex j => .ok [offer (wordRdhex j)]
  | .word w => .ok [offer (BitVec.ofNat 16 w)]
  | .reset => .ok [assertReset]
  | .absorbw w => .ok (absorbAll ((List.range 4).map fun r => wordByte (BitVec.ofNat 32 w) (BitVec.ofNat 2 r)))
  | .absorbs none => .error .invalidEncoding
  | .absorbs (some m) => .ok (absorbAll m)
  | .rdstate => .ok ((List.range 8).map fun i => offer (wordRdh i))
  | .rddigest => .ok ((List.range 32).map fun i => offer (wordRddig i))
  | .rdhexstr => .ok readHex
  | .hash text => hashCommands text

/-- The assembler: an operand out of range is an error (R101). -/
def assemble (l : Line) : Except AsmError (List HostInput) :=
  if l.wellFormed then expand l else .error .operandRange

/-- A program: the lines' expansions one after another, or the first error. -/
def assembleAll : List Line → Except AsmError (List HostInput)
  | [] => .ok []
  | l :: rest =>
    match assemble l with
    | .error e => .error e
    | .ok here =>
      match assembleAll rest with
      | .error e => .error e
      | .ok later => .ok (here ++ later)

end Sys2Proof.Machine
end

