-- ==== Sys2Proof/Machine/Contract.lean ====
section
/-! DEFINITION. What the hardware computes, as pure functions of bytes and words: the padding function (spec 40_padder R120
to R122), the compression function and the hash fold (41_compressor R155), the digest and the hex string
(42_digest_assembler R170, 43_hex_encoder R181), and the step counts (40_padder R130, 70_reset R250). No step of the machine
uses this file: it is what the machine's runs are compared with. -/

namespace Sys2Proof.Machine

/-- `z = (55 - n) mod 64`, the zero bytes of the padding of an `n`-byte message (R121). -/
def zeroCount (n : Nat) : Nat := (119 - n % 64) % 64

/-- The eight length bytes, most significant first (R121, 20_memory R65). -/
def lengthField (len : BitVec 64) : List Byte := (List.range 8).map fun k => lengthByte len (BitVec.ofNat 3 k)

/-- `Pad(M)` (R121), for a message of at most 2^61 - 1 bytes. DESIGN CHOICE (log 21): a longer message is out of the spec's
scope (R120, R129, 91_not_in_source N8); the length field written here is then `8n` modulo 2^64, and nothing rests on it. -/
def pad (m : List Byte) : List Byte :=
  m ++ [0x80] ++ List.replicate (zeroCount m.length) 0x00 ++ lengthField (BitVec.ofNat 64 (8 * m.length))

/-- The number of blocks of the padded message, `ceil((8n + 65) / 512)` (R122). -/
def blockCount (n : Nat) : Nat := (8 * n + 65 + 511) / 512

/-- A block: 64 bytes (00_scope R6, 20_memory R69). -/
abbrev Block := Vector Byte 64

/-- The 64-byte slices of a byte sequence, in order (R69): slice `q` holds bytes `64q` to `64q + 63`. -/
def blocks (bytes : List Byte) : List Block :=
  (List.range (bytes.length / Config.blockBytes)).map fun q =>
    Vector.ofFn fun i => bytes.getD (Config.blockBytes * q + i.val) 0

/-- Schedule words 0 to 15: the block's big-endian words (20_memory R64). -/
def firstWords (blk : Block) : List Word :=
  (List.range 16).map fun i =>
    blk.toList.getD (4 * i) 0 ++ blk.toList.getD (4 * i + 1) 0 ++ blk.toList.getD (4 * i + 2) 0
      ++ blk.toList.getD (4 * i + 3) 0

/-- The schedule extended by `n` words, each from the words 2, 7, 15 and 16 places before it (R151). -/
def extendSchedule : Nat → List Word → List Word
  | 0, w => w
  | n + 1, w =>
    extendSchedule n (w ++ [extendWord (w.getD (w.length - 2) 0) (w.getD (w.length - 7) 0)
      (w.getD (w.length - 15) 0) (w.getD (w.length - 16) 0)])

/-- The message schedule of a block: 64 words (R140 step 1). -/
def schedule (blk : Block) : List Word := extendSchedule 48 (firstWords blk)

/-- One round on the eight working variables `a` to `h` (R153). -/
def roundOnce (x : Vector Word 8) (k w : Word) : Vector Word 8 :=
  let t1 := roundT1 x[4] x[5] x[6] x[7] k w
  let t2 := roundT2 x[0] x[1] x[2]
  #v[t1 + t2, x[0], x[1], x[2], x[3] + t1, x[4], x[5], x[6]]

/-- The working variables after the first `n` rounds on a schedule (R140 step 3). -/
def roundsFrom (w : List Word) (n : Nat) (x : Vector Word 8) : Vector Word 8 :=
  (List.range n).foldl (fun x t => roundOnce x (kTable.getD t 0) (w.getD t 0)) x

/-- `Compress(h0, blk)`: schedule, 64 rounds, fold (R140, R155). -/
def compress (h0 : Vector Word 8) (blk : Block) : Vector Word 8 :=
  let x := roundsFrom (schedule blk) Config.rounds h0
  Vector.ofFn fun i => h0[i] + x[i]

/-- The final running state of a message: the left fold of `Compress` over the blocks of `Pad(M)` from `IV` (R155, R156). -/
def hashOf (m : List Byte) : Vector Word 8 := (blocks (pad m)).foldl compress iv

/-- The digest as one 256-bit value, `H[0] ‖ H[1] ‖ ... ‖ H[7]` (R170). -/
def digestValue (h : Vector Word 8) : BitVec 256 := h[0] ++ h[1] ++ h[2] ++ h[3] ++ h[4] ++ h[5] ++ h[6] ++ h[7]

/-- Digest byte `i` by position in that value: byte 0 is the most significant (R170). -/
def digestByte (h : Vector Word 8) (i : Nat) : Byte := (digestValue h).extractLsb' (248 - 8 * i) 8

/-- Hex character `j`: the digest as a 64-digit hexadecimal number, most significant digit first (R181). -/
def hexDigit (h : Vector Word 8) (j : Nat) : Byte := hexRomAt ((digestValue h).extractLsb' (252 - 4 * j) 4)

/-- `digestHex` of a byte sequence: its 64 characters (44_entry_point R192). -/
def hexString (m : List Byte) : List Byte := (List.range 64).map fun j => hexDigit (hashOf m) j

/-- The sequencer's steps for a whole hash of `n` bytes (70_reset R250): 115 a block, and one a padding byte. -/
def hashUops (n : Nat) : Nat := Config.uopsPerBlock * blockCount n + (Config.blockBytes * blockCount n - n)

/-- The sequencer's steps from FINAL to DONE after `n` message bytes (40_padder R130). -/
def finalUops (n : Nat) : Nat :=
  (1 + zeroCount n + 8) + Config.uopsPerBlock * (if n % 64 ≤ 55 then 1 else 2)

/-- The eight words of H as one vector. -/
def State.hWords (s : State) : Vector Word 8 := Vector.ofFn fun i => s.h[i].val

/-- The 64 bytes of the block buffer as one block. -/
def State.block (s : State) : Block := Vector.ofFn fun i => s.b[i].val

end Sys2Proof.Machine
end

