-- ==== Sys2Proof/Machine/Procedure.lean ====
section
/-! DEFINITION. The procedure digestHex as the host runs it on one CORE (spec 44_entry_point R192): what it requires before
the first command, the commands it offers, and the string it makes of their responses. -/

namespace Sys2Proof.Machine

/-- What the host does for `digestHex(text)` on a CORE in state `s` (R192): the commands, or the reason why it offers none. A
text with no well-formed encoding comes first (R193); then what R192 requires, PHASE not FAULT and a length of at most
2^61 - 1 bytes (what a failed `require` answers is log 22). -/
def digestHexInputs (text : HostText) (s : State) : Except AsmError (List HostInput) :=
  match text with
  | none => .error .invalidEncoding
  | some m => if s.phase = Phase.fault then .error .faulted else hashCommands (some m)

/-- The response words of the next `n` steps, in order; a step that gives none adds none (00_scope R14). DESIGN CHOICE (log
23): where the CORE is stuck, which no run from reset reaches, the list ends; the host of the spec would wait for ever. -/
def responses : Nat → State → List Word
  | 0, _ => []
  | n + 1, s =>
    match step s with
    | .next t => t.rsp.toList ++ responses n t
    | .fault _ => []
    | .refused _ => []

/-- Enough steps for the whole procedure on an `n`-byte message: a hold that is going on (at most 302 steps, 70_reset R244, in
every state a run from reset reaches; log 23), one step a command, and the sequencer's steps of the hash (R250). -/
def procedureSteps (n : Nat) : Nat := 302 + (n + 2) + hashUops n + 64

/-- `s[j] <- character with code (RDHEX j)[7:0]` (R192): of the responses to the procedure's commands on an `n`-byte message,
those to INIT, the ABSORBs and FINAL are passed over, and the 64 after them give their low eight bits. -/
def hexOfResponses (n : Nat) (answers : List Word) : List Byte :=
  ((answers.drop (n + 2)).take 64).map fun r => r.extractLsb' 0 8

/-- `digestHex(text)` run on a CORE in state `s` (R192): the host offers the procedure's commands, waits for each, and returns
the characters that the RDHEX responses carry; or the reason why it offers nothing. DESIGN CHOICE (log 23): on a CORE that
never gives all the responses the string is the shorter one of those it gave, not a wait for ever. -/
def digestHex (text : HostText) (s : State) : Except AsmError (List Byte) :=
  match digestHexInputs text s with
  | .error e => .error e
  | .ok ins =>
    let n := (text.getD []).length
    .ok (hexOfResponses n (responses (procedureSteps n) (s.setHost ins)))

end Sys2Proof.Machine
end

