-- ==== Sys2Proof/Machine/System.lean ====
section
/-! DEFINITION. A system of `n` CORE copies (spec 00_scope R8 `N_INSTANCES`, 60_exceptions R226, 20_memory R82): each has its
complete state, its command port and its reset, and they share nothing. Which copy moves next is the system's choice, an
argument of the step. -/

namespace Sys2Proof.Machine

/-- The states of `n` copies. -/
abbrev Cores (n : Nat) := Vector State n

/-- A system of the default size (R8). -/
abbrev DefaultSystem := Cores Config.nCoresDefault

/-- Every copy right after its reset. -/
def Cores.reset (n : Nat) : Cores n := Vector.ofFn fun _ => State.reset

/-- One step of copy `k`: its own step, in its own state. -/
def Cores.stepAt {n : Nat} (sys : Cores n) (k : Fin n) : Host.Outcome (Cores n) Fault Refusal :=
  match step sys[k] with
  | .next t => .next (sys.set k.val t k.isLt)
  | .fault r => .fault r
  | .refused r => .refused r

end Sys2Proof.Machine
end

