-- ==== Sys2Proof/Safety.lean ====
section
/-! DEFINITION. The terms claims are stated in: runs of several steps, a step that goes on, the invariant of spec 10_state
R45, the frame of an instruction, and agreement of two states on everything that has been written since reset (R42). -/

namespace Sys2Proof.Machine

/-- `n` steps, one after another; a stop ends the run. -/
def steps : Nat → State → Host.Outcome State Fault Refusal
  | 0, s => .next s
  | n + 1, s =>
    match step s with
    | .next t => steps n t
    | .fault r => .fault r
    | .refused r => .refused r

/-- A step that goes on: the machine has a next state. -/
def GoesOn (s : State) : Prop := ∃ t, step s = .next t

/-- The host does not assert reset now. -/
def NoResetNow (s : State) : Prop :=
  match s.host with
  | ⟨true, _⟩ :: _ => False
  | _ => True

/-- The host leaves the sequencer alone: it offers nothing any more, or it keeps one command offered and does not assert reset
while it does. -/
def HostWaits (s : State) : Prop := s.host = [] ∨ ∃ c rest, s.host = ⟨false, some ⟨c, []⟩⟩ :: rest

/-- The host offers the command word `c` now, without reset; `rest` is what it does once the word is accepted. -/
def Offers (s : State) (c : CmdWord) (rest : List HostInput) : Prop :=
  ∃ resets, s.host = ⟨false, some ⟨c, resets⟩⟩ :: rest

/-- A prime number: at least 2, and no number from 2 on below it divides it. -/
def isPrime (p : Nat) : Bool := 2 ≤ p && (List.range p).all fun d => d < 2 || p % d != 0

/-- The primes up to 311, in rising order: the first 64 primes (41_compressor R142, "2 to 311"). -/
def firstPrimes : List Nat := (List.range 312).filter isPrime

/-- The phases in which an offered word is decoded (spec 60_exceptions R211, R212): IDLE, ABSORB and DONE. -/
def Decodes (phase : BitVec 3) : Prop := phase = Phase.idle ∨ phase = Phase.absorb ∨ phase = Phase.done

/-- The registers of spec 10_state R20, by name. -/
inductive RegName where
  | h | v | w | b | len | fill | phase | stage | t | fin | ps | lk | fcode
  deriving DecidableEq, Repr

/-- Two states hold the same in a register, its NOVALUE mark included. -/
def RegName.Same : RegName → State → State → Prop
  | .h, x, y => y.h = x.h
  | .v, x, y => y.v = x.v
  | .w, x, y => y.w = x.w
  | .b, x, y => y.b = x.b
  | .len, x, y => y.len = x.len
  | .fill, x, y => y.fill = x.fill
  | .phase, x, y => y.phase = x.phase
  | .stage, x, y => y.stage = x.stage
  | .t, x, y => y.t = x.t
  | .fin, x, y => y.fin = x.fin
  | .ps, x, y => y.ps = x.ps
  | .lk, x, y => y.lk = x.lk
  | .fcode, x, y => y.fcode = x.fcode

/-- Every register outside the list is as before, and so is what the host still does. -/
def KeepsBut (written : List RegName) (s t : State) : Prop :=
  (∀ r, r ∉ written → r.Same s t) ∧ t.host = s.host

/-- Every byte of the block buffer but the one at index `i` is as before. -/
def KeepsBytesBut (i : BitVec 6) (s t : State) : Prop :=
  ∀ k : Fin 64, k.val ≠ i.toNat → t.b[k] = s.b[k]

/-- `t` is `s` after fault entry with cause `c`, and nothing else (60_exceptions R215). -/
def Raised (c : Cause) (s t : State) : Prop :=
  t.phase = Phase.fault ∧ t.fcode = c.code ∧ t.rsp = some t.status ∧ KeepsBut [.phase, .fcode] s t

/-- The table of 60_exceptions R212: whether a phase among IDLE, ABSORB and DONE admits a command. A micro-operation is no
command. -/
def admits (i : Instr) (phase : BitVec 3) : Bool :=
  match i with
  | .init => true
  | .rdstat => true
  | .absorb _ => phase == Phase.absorb
  | .final => phase == Phase.absorb
  | .rdh _ => phase == Phase.absorb || phase == Phase.done
  | .rddig _ => phase == Phase.done
  | .rdhex _ => phase == Phase.done
  | .wload => false
  | .wext => false
  | .vinit => false
  | .round => false
  | .hfold => false
  | .pad80 => false
  | .pad00 => false
  | .padlen => false

/-- The read commands (20_memory R72). -/
def reads : Instr → Bool
  | .rdstat => true
  | .rdh _ => true
  | .rddig _ => true
  | .rdhex _ => true
  | .init => false
  | .absorb _ => false
  | .final => false
  | .wload => false
  | .wext => false
  | .vinit => false
  | .round => false
  | .hfold => false
  | .pad80 => false
  | .pad00 => false
  | .padlen => false

/-- The column "written by" of 10_state R20, read by instruction: the registers an instruction may write, fault entry
(`PHASE`, `FCODE`) among them where the instruction can raise a fault. -/
def mayWrite : Instr → List RegName
  | .init => [.h, .len, .fill, .phase, .stage, .t, .fin, .ps, .lk]
  | .absorb _ => [.b, .len, .fill, .phase, .stage, .t, .fcode]
  | .final => [.phase, .fin, .ps, .lk, .fcode]
  | .rdstat => []
  | .rdh _ => [.phase, .fcode]
  | .rddig _ => [.phase, .fcode]
  | .rdhex _ => [.phase, .fcode]
  | .wload => [.w, .stage, .t]
  | .wext => [.w, .stage, .t]
  | .vinit => [.v, .stage, .t]
  | .round => [.v, .stage, .t]
  | .hfold => [.h, .phase, .stage, .t]
  | .pad80 => [.b, .fill, .phase, .stage, .t, .ps]
  | .pad00 => [.b, .fill, .phase, .stage, .t, .ps]
  | .padlen => [.b, .fill, .phase, .stage, .t, .ps, .lk]

/-- The invariant of every state reachable from reset: spec 10_state R45, items 1 to 8, and what its induction needs beside
them (each such field says so). -/
structure CoreInv (s : State) : Prop where
  /-- R45 item 1. -/
  phase_le : s.phase ≤ 5
  /-- R45 item 1. -/
  stage_le : s.phase = Phase.compress → s.stage.val ≤ 4
  /-- R45 item 1. -/
  ps_le : s.phase = Phase.pad → s.ps.val ≤ 2
  /-- R45 item 2: in ABSORB, COMPRESS, PAD and DONE these hold values. -/
  opened : s.phase ≠ Phase.idle → s.phase ≠ Phase.fault →
    (∀ i : Fin 8, s.h[i].written = true) ∧ s.len.written = true ∧ s.fin.written = true ∧ s.ps.written = true ∧
      s.lk.written = true ∧ s.stage.written = true ∧ s.t.written = true
  /-- R45 item 3. -/
  len_mod : s.len.written = true → s.len.val.toNat % 8 = 0
  /-- R45 item 3. -/
  absorb_fill : s.phase = Phase.absorb → s.fill.toNat = s.len.val.toNat / 8 % 64 ∧ s.fin.val = 0
  /-- R45 item 4, for every stage of COMPRESS (10_state R36: the buffer is rewritten only after HFOLD). -/
  buffer_full : s.phase = Phase.compress → (∀ i : Fin 64, s.b[i].written = true) ∧ s.fill = 0
  /-- R45 item 5, stage WEXT, with the operand's range (10_state R26: T counts 16 to 63). -/
  wext_ready : s.phase = Phase.compress → s.stage.val = Stage.wext →
    16 ≤ s.t.val ∧ ∀ i : Fin 64, i.val < s.t.val.toNat → s.w[i].written = true
  /-- R45 item 5, from stage VINIT on. -/
  schedule_ready : s.phase = Phase.compress → Stage.vinit ≤ s.stage.val → ∀ i : Fin 64, s.w[i].written = true
  /-- R45 item 5, stages ROUND and HFOLD. -/
  vars_ready : s.phase = Phase.compress → Stage.round ≤ s.stage.val → ∀ i : Fin 8, s.v[i].written = true
  /-- R45 item 6. -/
  length_fill : s.phase = Phase.pad → s.ps.val = PadStage.length → s.fill.toNat = 56 + s.lk.val.toNat
  /-- R45 item 7. -/
  fcode_iff : s.fcode ≠ 0 ↔ s.phase = Phase.fault
  /-- R45 item 8. -/
  done_state : s.phase = Phase.done → s.fill = 0 ∧ s.ps.val = PadStage.ended ∧ s.fin.val = 1
  /-- 10_state R27 and R44: in IDLE nothing has been written and FILL is 0. -/
  idle_state : s.phase = Phase.idle → s.fill = 0 ∧ s.len.written = false ∧ s.fin.written = false ∧
    s.ps.written = false ∧ s.lk.written = false ∧ s.stage.written = false ∧ s.t.written = false ∧
    (∀ i : Fin 8, s.h[i].written = false ∧ s.v[i].written = false) ∧
    (∀ i : Fin 64, s.w[i].written = false ∧ s.b[i].written = false)
  /-- 10_state R35: codes 4 to 15 are never written. -/
  fcode_le : s.fcode ≤ 3
  /-- For the induction: the bytes below FILL have been written in this block. -/
  buffer_below : s.phase = Phase.absorb ∨ s.phase = Phase.pad →
    ∀ i : Fin 64, i.val < s.fill.toNat → s.b[i].written = true
  /-- For the induction: a block filled by ABSORB ends at a whole number of blocks. -/
  compress_len : s.phase = Phase.compress → s.fin.val = 0 → s.len.val.toNat / 8 % 64 = 0
  /-- 41_compressor R154: after FINAL, a block that is not the last ends in pad stage ZERO. -/
  compress_fin : s.phase = Phase.compress → s.fin.val = 1 →
    s.ps.val = PadStage.ended ∨ (s.ps.val = PadStage.zero ∧ s.lk.val = 0)
  /-- 10_state R33: PAD follows FINAL, and no length byte is out before pad stage LENGTH. -/
  pad_state : s.phase = Phase.pad → s.fin.val = 1 ∧ (s.ps.val ≠ PadStage.length → s.lk.val = 0)
  /-- 95_test_vectors section 2.1: outside COMPRESS an open hash has STAGE = 0 and T = 0. -/
  stage_rest : s.phase = Phase.absorb ∨ s.phase = Phase.pad ∨ s.phase = Phase.done →
    s.stage.val = 0 ∧ s.t.val = 0
  /-- 10_state R26: WLOAD, VINIT and HFOLD run with T = 0. -/
  single_t : s.phase = Phase.compress → s.stage.val ≠ Stage.wext → s.stage.val ≠ Stage.round → s.t.val = 0

/-- Two registers agree when they are written or not alike, and a written value is the same. -/
def Reg.Agree {n : Nat} (x y : Reg n) : Prop := x.written = y.written ∧ (x.written = true → x.val = y.val)

/-- Two states agree on everything but the bits of registers that hold NOVALUE (10_state R42). -/
structure Agree (s t : State) : Prop where
  h : ∀ i : Fin 8, s.h[i].Agree t.h[i]
  v : ∀ i : Fin 8, s.v[i].Agree t.v[i]
  w : ∀ i : Fin 64, s.w[i].Agree t.w[i]
  b : ∀ i : Fin 64, s.b[i].Agree t.b[i]
  len : s.len.Agree t.len
  fill : s.fill = t.fill
  phase : s.phase = t.phase
  stage : s.stage.Agree t.stage
  tIndex : s.t.Agree t.t
  fin : s.fin.Agree t.fin
  ps : s.ps.Agree t.ps
  lk : s.lk.Agree t.lk
  fcode : s.fcode = t.fcode
  host : s.host = t.host
  rsp : s.rsp = t.rsp

end Sys2Proof.Machine
end

