-- ==== Sys2Proof/Certificates/Slice0/Obligations.lean ====
section
/-! DEFINITION. The statements for the provers, each with the rule of spec/ it formalises. A statement about an instruction's
result is its completion too: it says that `exec` answers a next state. -/

open Sys2Proof Sys2Proof.Machine

/-! ### Reset -/

/-- R44 left column, R240, R241: after reset PHASE, FCODE and FILL are 0, the status word is 0, DV and FLT are 0, and every
other register holds NOVALUE. (What bits stand beside the NOVALUE mark is the model's choice, log 1, and is not said.) -/
def Obligations.ResetValues : Prop :=
  State.reset.phase = 0 ∧ State.reset.fcode = 0 ∧ State.reset.fill = 0 ∧ State.reset.status = 0 ∧
  State.reset.dv = 0 ∧ State.reset.flt = 0 ∧
  (∀ i : Fin 8, State.reset.h[i].written = false ∧ State.reset.v[i].written = false) ∧
  (∀ i : Fin 64, State.reset.w[i].written = false ∧ State.reset.b[i].written = false) ∧
  State.reset.len.written = false ∧ State.reset.stage.written = false ∧ State.reset.t.written = false ∧
  State.reset.fin.written = false ∧ State.reset.ps.written = false ∧ State.reset.lk.written = false

/-- R240: reset asserted at any state, whatever else is offered or due, is the next state: PHASE IDLE, FCODE and FILL 0, every
other register NOVALUE, the status word 0; a command offered with it gets no response, a micro-operation due does not run; and
reset is the only way out of phase FAULT. -/
def Obligations.ResetWinsOverEverything : Prop :=
  (∀ (s : State) (o : Option Offer) (rest : List HostInput), s.host = ⟨true, o⟩ :: rest →
    ∃ t, step s = .next t ∧ t.phase = Phase.idle ∧ t.fcode = 0 ∧ t.fill = 0 ∧ t.status = 0 ∧ t.rsp = none ∧
      (∀ i : Fin 8, t.h[i].written = false ∧ t.v[i].written = false) ∧
      (∀ i : Fin 64, t.w[i].written = false ∧ t.b[i].written = false) ∧
      t.len.written = false ∧ t.stage.written = false ∧ t.t.written = false ∧ t.fin.written = false ∧
      t.ps.written = false ∧ t.lk.written = false) ∧
  ∀ s t : State, s.phase = Phase.fault → step s = .next t → t.phase ≠ Phase.fault →
    ∃ o rest, s.host = ⟨true, o⟩ :: rest

/-- The model's choice (log 18), from "keep a command offered until it is accepted" (44_entry_point section 3): a command
offered together with reset, which reset beats, is still offered after the reset, with the reset line as the host drives it
then; where the host does not assert reset again, it is offered without. -/
def Obligations.CommandOfferedWithResetStaysOffered : Prop :=
  ∀ (s : State) (c : CmdWord) (resets : List Bool) (rest : List HostInput), s.host = ⟨true, some ⟨c, resets⟩⟩ :: rest →
    ∃ t, step s = .next t ∧ t.rsp = none ∧ (resets = [] → t.host = ⟨false, some ⟨c, []⟩⟩ :: rest) ∧
      ∀ r later, resets = r :: later → t.host = ⟨r, some ⟨c, later⟩⟩ :: rest

/-! ### The step -/

/-- R100, R74: when the port is in a phase that decodes, and the word offered decodes to an instruction, the step is that
instruction, on the state with the word taken from the port. -/
def Obligations.StepRunsOfferedCommand : Prop :=
  ∀ (s : State) (c : CmdWord) (rest : List HostInput) (i : Instr), Offers s c rest → Decodes s.phase →
    decodeCmd c = .ok i → step s = exec i (s.setHost rest)

/-- R96, R13: while PHASE is COMPRESS or PAD and reset is not asserted, the step is the micro-operation the selector word
decodes to; an offered command stays at the port, with the reset line as the host drives it next, and a moment in which the
host offers nothing passes (the host's list is log 3). -/
def Obligations.StepRunsSelectedMicroOperation : Prop :=
  ∀ (s : State) (i : Instr), seqBusy s.phase = true → NoResetNow s → decodeSel s.sw = .ok i →
    step s = exec i (s.setHost (match s.host with
      | [] => []
      | ⟨_, none⟩ :: rest => rest
      | ⟨_, some ⟨c, []⟩⟩ :: rest => ⟨false, some ⟨c, []⟩⟩ :: rest
      | ⟨_, some ⟨c, r :: later⟩⟩ :: rest => ⟨r, some ⟨c, later⟩⟩ :: rest))

/-- R211, R97: an illegal word accepted in IDLE, ABSORB or DONE raises ILLEGAL_CMD, whatever LEN is, and nothing else
changes. -/
def Obligations.IllegalWordRaisesIllegalCmd : Prop :=
  ∀ (s : State) (c : CmdWord) (rest : List HostInput), Offers s c rest → Decodes s.phase → legal c = false →
    ∃ t, step s = .next t ∧ Raised .illegalCmd (s.setHost rest) t ∧ t.fcode = 1

/-- R218, R98: in phase FAULT every word, legal or not, is accepted, changes no register and is answered with the status word
`0x15 OR (FCODE << 8) OR (FILL << 16)`. -/
def Obligations.FaultPhaseAnswersEveryWord : Prop :=
  ∀ (s : State) (c : CmdWord) (rest : List HostInput), Offers s c rest → s.phase = Phase.fault →
    ∃ t, step s = .next t ∧ KeepsBut [] (s.setHost rest) t ∧
      t.rsp = some (0x15 ||| (s.fcode.setWidth 32 <<< 8) ||| (s.fill.setWidth 32 <<< 16))

/-- R244, R229: a command offered while the sequencer is busy is held: the step is the one the sequencer takes when nothing is
offered, and the command is still offered after it. A hold that has begun is lifted by reset too: where the host asserts
reset in the step after, that step gives no response and leaves PHASE IDLE, FCODE and FILL 0. (That the command then is still
offered is log 18; the list of reset lines is log 3.) -/
def Obligations.BusyPortHoldsCommand : Prop :=
  ∀ (s : State) (c : CmdWord) (resets : List Bool) (rest : List HostInput),
    s.host = ⟨false, some ⟨c, resets⟩⟩ :: rest → seqBusy s.phase = true →
    (∀ t, step (s.setHost []) = .next t → t.rsp = none ∧ step s = .next (t.setHost (match resets with
      | [] => s.host
      | r :: later => ⟨r, some ⟨c, later⟩⟩ :: rest))) ∧
    (∀ t, step s = .next t → step (s.setHost []) = .next (t.setHost [])) ∧
    ∀ later t, resets = true :: later → step s = .next t →
      ∃ u, step t = .next u ∧ u.phase = Phase.idle ∧ u.fcode = 0 ∧ u.fill = 0 ∧ u.rsp = none

/-- R228, R13: in IDLE, ABSORB, DONE and FAULT nothing moves while the host offers nothing: for good (the empty list), or in
this step (an entry without an offer, which then has passed; log 3). (That the model's step then still answers, with no
register changed and no response, is log 5.) -/
def Obligations.NothingMovesUnlessHostActs : Prop :=
  ∀ s : State, cmdReady s.phase = true →
    (s.host = [] → ∃ t, step s = .next t ∧ KeepsBut [] s t ∧ t.rsp = none) ∧
    ∀ rest, s.host = ⟨false, none⟩ :: rest → ∃ t, step s = .next t ∧ KeepsBut [] (s.setHost rest) t ∧ t.rsp = none

/-- R99, R27: a selector word with no row gives the sequencer no step, and in PHASE 6 and 7 nobody steps; only reset does. -/
def Obligations.UnmatchedSelectorIsStuck : Prop :=
  ∀ s : State, NoResetNow s →
    (seqBusy s.phase = true →
      (s.phase = Phase.compress ∧ 5 ≤ s.stage.val) ∨ (s.phase = Phase.pad ∧ s.ps.val = PadStage.ended) →
      step s = .fault (.noMicroOperation s.sw)) ∧
    (6 ≤ s.phase → step s = .fault (.noAgent s.phase))

/-- R226, R82: the copies of a system share nothing: a step of copy `k` is that copy's own step and leaves every other copy as
it was. -/
def Obligations.CopiesShareNothing : Prop :=
  ∀ (n : Nat) (sys : Cores n) (k : Fin n) (t : State), step sys[k] = .next t →
    ∃ sys' : Cores n, sys.stepAt k = .next sys' ∧ sys'[k] = t ∧ ∀ j : Fin n, j ≠ k → sys'[j] = sys[j]

/-! ### The commands -/

/-- R190, R44 right column: INIT in IDLE, ABSORB or DONE. -/
def Obligations.InitBeginsNewHash : Prop :=
  ∀ s : State, Decodes s.phase → ∃ t, exec .init s = .next t ∧
    t.hWord 0 = 0x6a09e667 ∧ t.hWord 1 = 0xbb67ae85 ∧ t.hWord 2 = 0x3c6ef372 ∧ t.hWord 3 = 0xa54ff53a ∧
    t.hWord 4 = 0x510e527f ∧ t.hWord 5 = 0x9b05688c ∧ t.hWord 6 = 0x1f83d9ab ∧ t.hWord 7 = 0x5be0cd19 ∧
    (∀ i : Fin 8, t.h[i].written = true) ∧
    t.len = Reg.wrote 0 ∧ t.fill = 0 ∧ t.fin = Reg.wrote 0 ∧ t.ps = Reg.wrote 0 ∧ t.lk = Reg.wrote 0 ∧
    t.phase = Phase.absorb ∧ t.stage = Reg.wrote 0 ∧ t.t = Reg.wrote 0 ∧
    t.dv = 0 ∧ t.rsp = some t.status ∧ (s.fcode = 0 → t.rsp = some 1) ∧
    KeepsBut [.h, .len, .fill, .fin, .ps, .lk, .phase, .stage, .t] s t

/-- R124, R123: ABSORB `b` in phase ABSORB with `LEN ≠ 2^64 - 8` stores the byte at index FILL and counts it; the byte that
fills the block starts the compression. (That `LEN + 8` wraps where LEN is no multiple of 8, which no run reaches, is log
9.) -/
def Obligations.AbsorbAppendsByte : Prop :=
  ∀ (b : Byte) (s : State), s.phase = Phase.absorb → s.len.val ≠ 0xfffffffffffffff8 →
    ∃ t, exec (.absorb b) s = .next t ∧
      t.len = Reg.wrote (s.len.val + 8) ∧ t.bByte s.fill = b ∧ KeepsBytesBut s.fill s t ∧
      (if s.fill = 63 then
        t.fill = 0 ∧ t.phase = Phase.compress ∧ t.stage = Reg.wrote 0 ∧ t.t = Reg.wrote 0
      else
        t.fill.toNat = s.fill.toNat + 1 ∧ t.phase = Phase.absorb ∧ t.stage = s.stage ∧ t.t = s.t) ∧
      t.rsp = some t.status ∧ KeepsBut [.b, .len, .fill, .phase, .stage, .t] s t

/-- R213, R124: ABSORB at `LEN = 2^64 - 8` in phase ABSORB raises LEN_OVERFLOW; no byte is stored. -/
def Obligations.AbsorbRaisesLenOverflow : Prop :=
  ∀ (b : Byte) (s : State), s.phase = Phase.absorb → s.len.val = 0xfffffffffffffff8 →
    ∃ t, exec (.absorb b) s = .next t ∧ Raised .lenOverflow s t ∧ t.fcode = 3

/-- R125: FINAL in phase ABSORB. -/
def Obligations.FinalStartsPadder : Prop :=
  ∀ s : State, s.phase = Phase.absorb → ∃ t, exec .final s = .next t ∧
    t.fin = Reg.wrote 1 ∧ t.ps = Reg.wrote 0 ∧ t.lk = Reg.wrote 0 ∧ t.phase = Phase.pad ∧
    t.rsp = some t.status ∧ KeepsBut [.fin, .ps, .lk, .phase] s t

/-- R191: RDSTAT answers the status word and changes no register, in every phase in which a command is accepted. -/
def Obligations.RdstatAnswersStatus : Prop :=
  ∀ s : State, cmdReady s.phase = true →
    ∃ t, exec .rdstat s = .next t ∧ t.rsp = some s.status ∧ KeepsBut [] s t

/-- R191, the table of "the only words RDSTAT can return", in every state that meets the invariant. -/
def Obligations.RdstatWordsByPhase : Prop :=
  ∀ s : State, CoreInv s → cmdReady s.phase = true → ∃ t, exec .rdstat s = .next t ∧
    (s.phase = Phase.idle → t.rsp = some 0x00000000) ∧
    (s.phase = Phase.absorb → t.rsp = some (0x00000001 ||| (s.fill.setWidth 32 <<< 16))) ∧
    (s.phase = Phase.done → t.rsp = some 0x0000000c) ∧
    (s.phase = Phase.fault →
      t.rsp = some (0x00000015 ||| (s.fcode.setWidth 32 <<< 8) ||| (s.fill.setWidth 32 <<< 16)) ∧
        1 ≤ s.fcode ∧ s.fcode ≤ 3)

/-- R171: RDH `i` in ABSORB or DONE answers `H[i]` and changes no register. -/
def Obligations.RdhAnswersStateWord : Prop :=
  ∀ (i : BitVec 3) (s : State), s.phase = Phase.absorb ∨ s.phase = Phase.done →
    ∃ t, exec (.rdh i) s = .next t ∧ t.rsp = some (s.hWord i) ∧ KeepsBut [] s t

/-- R172, R170: RDDIG `i` in DONE answers digest byte `i` (bits `31 - 8r : 24 - 8r` of `H[i div 4]`, `r = i mod 4`),
zero-extended, and changes no register. -/
def Obligations.RddigAnswersDigestByte : Prop :=
  ∀ (i : BitVec 5) (s : State), s.phase = Phase.done →
    ∃ t, exec (.rddig i) s = .next t ∧ KeepsBut [] s t ∧
      t.rsp = some ((s.hWord (BitVec.ofNat 3 (i.toNat / 4)) >>> (24 - 8 * (i.toNat % 4))) &&& 0xff)

/-- R182, R181: RDHEX `j` in DONE answers the code of the character of digest byte `j div 2`'s high nibble for even `j` and
low nibble for odd `j`, zero-extended, and changes no register. -/
def Obligations.RdhexAnswersCharacter : Prop :=
  ∀ (j : BitVec 6) (s : State), s.phase = Phase.done →
    ∃ t, exec (.rdhex j) s = .next t ∧ KeepsBut [] s t ∧
      t.rsp = some ((hexRomAt (if j.toNat % 2 = 0
        then (s.dig (BitVec.ofNat 5 (j.toNat / 2))).extractLsb' 4 4
        else (s.dig (BitVec.ofNat 5 (j.toNat / 2))).extractLsb' 0 4)).setWidth 32)

/-- R212: a command in a phase among IDLE, ABSORB and DONE that does not admit it raises BAD_PHASE, and nothing else changes;
one that is admitted does not (it faults at most with code 3). -/
def Obligations.WrongPhaseRaisesBadPhase : Prop :=
  ∀ (i : Instr) (s : State), i.format = .cmd → Decodes s.phase →
    (admits i s.phase = false → ∃ t, exec i s = .next t ∧ Raised .badPhase s t ∧ t.fcode = 2) ∧
    (admits i s.phase = true → ∃ t, exec i s = .next t ∧ (t.phase = Phase.fault → t.fcode = 3))

/-- R217: of the conditions that hold for one offered word the first in the order ILLEGAL_CMD, BAD_PHASE, LEN_OVERFLOW is
raised, and where none holds no fault is; the host's InvalidEncoding stops it before the first command, in every phase. -/
def Obligations.FaultPriority : Prop :=
  (∀ s : State, digestHexInputs none s = .error .invalidEncoding) ∧
  ∀ (s : State) (c : CmdWord) (rest : List HostInput), Offers s c rest → Decodes s.phase →
    (legal c = false → ∃ t, step s = .next t ∧ Raised .illegalCmd (s.setHost rest) t) ∧
    (∀ i, decodeCmd c = .ok i → admits i s.phase = false →
      ∃ t, step s = .next t ∧ Raised .badPhase (s.setHost rest) t) ∧
    (∀ b, decodeCmd c = .ok (.absorb b) → s.phase = Phase.absorb → s.len.val = 0xfffffffffffffff8 →
      ∃ t, step s = .next t ∧ Raised .lenOverflow (s.setHost rest) t) ∧
    (∀ i, decodeCmd c = .ok i → admits i s.phase = true →
      (∀ b, i = .absorb b → s.len.val ≠ 0xfffffffffffffff8) →
      ∃ t, step s = .next t ∧ t.phase ≠ Phase.fault)

/-- R72: RDSTAT, RDH, RDDIG and RDHEX, when they do not fault, change no register, and repeating one gives the same state and
response again; one that faults enters phase FAULT. -/
def Obligations.ReadsHaveNoSideEffects : Prop :=
  ∀ (i : Instr) (s : State), reads i = true → Decodes s.phase →
    (admits i s.phase = true → ∃ t, exec i s = .next t ∧ KeepsBut [] s t ∧ exec i t = .next t) ∧
    (admits i s.phase = false → ∃ t, exec i s = .next t ∧ t.phase = Phase.fault)

/-- R215: the operation `raise F`: PHASE FAULT, FCODE the code `n`, the response `0x15 OR (n << 8) OR (FILL << 16)`, and every
other register keeps its value; and a command that faults does this and nothing else. -/
def Obligations.FaultEntryResponse : Prop :=
  (∀ (c : Cause) (s : State), Raised c s (s.raise c) ∧
    (s.raise c).rsp = some (0x15 ||| (c.code.setWidth 32 <<< 8) ||| (s.fill.setWidth 32 <<< 16))) ∧
  ∀ (i : Instr) (s t : State), i.format = .cmd → Decodes s.phase → exec i s = .next t → t.phase = Phase.fault →
    ∃ c : Cause, t = s.raise c

/-! ### The padder's micro-operations -/

/-- R126, R123: PAD80 appends the byte 0x80; the pad stage is LENGTH when the fill level has reached 56, else ZERO. -/
def Obligations.Pad80AppendsMarker : Prop :=
  ∀ s : State, (s.phase = Phase.pad → s.ps.val = PadStage.mark → decodeSel s.sw = .ok .pad80) ∧
    ∃ t, exec .pad80 s = .next t ∧ t.bByte s.fill = 0x80 ∧ KeepsBytesBut s.fill s t ∧
    t.fill.toNat = (s.fill.toNat + 1) % 64 ∧ t.ps = Reg.wrote (if t.fill = 56 then 2 else 1) ∧
    (if s.fill = 63 then t.phase = Phase.compress ∧ t.stage = Reg.wrote 0 ∧ t.t = Reg.wrote 0
      else t.phase = s.phase ∧ t.stage = s.stage ∧ t.t = s.t) ∧
    t.rsp = none ∧ KeepsBut [.b, .fill, .ps, .phase, .stage, .t] s t

/-- R127, R123: PAD00 appends a zero byte; the pad stage likewise. -/
def Obligations.Pad00AppendsZero : Prop :=
  ∀ s : State, (s.phase = Phase.pad → s.ps.val = PadStage.zero → decodeSel s.sw = .ok .pad00) ∧
    ∃ t, exec .pad00 s = .next t ∧ t.bByte s.fill = 0x00 ∧ KeepsBytesBut s.fill s t ∧
    t.fill.toNat = (s.fill.toNat + 1) % 64 ∧ t.ps = Reg.wrote (if t.fill = 56 then 2 else 1) ∧
    (if s.fill = 63 then t.phase = Phase.compress ∧ t.stage = Reg.wrote 0 ∧ t.t = Reg.wrote 0
      else t.phase = s.phase ∧ t.stage = s.stage ∧ t.t = s.t) ∧
    t.rsp = none ∧ KeepsBut [.b, .fill, .ps, .phase, .stage, .t] s t

/-- R128, R123: PADLEN appends byte LK of LEN, LK = 0 the most significant; after LK = 7 the pad stage is END, else LK counts
on. -/
def Obligations.PadlenAppendsLengthByte : Prop :=
  ∀ s : State, (s.phase = Phase.pad → s.ps.val = PadStage.length → decodeSel s.sw = .ok .padlen) ∧
    ∃ t, exec .padlen s = .next t ∧
    (t.bByte s.fill).toNat = s.len.val.toNat / 2 ^ (56 - 8 * s.lk.val.toNat) % 256 ∧ KeepsBytesBut s.fill s t ∧
    t.fill.toNat = (s.fill.toNat + 1) % 64 ∧
    (if s.lk.val = 7 then t.ps = Reg.wrote 3 ∧ t.lk = s.lk
      else t.ps = s.ps ∧ t.lk = Reg.wrote (s.lk.val + 1)) ∧
    (if s.fill = 63 then t.phase = Phase.compress ∧ t.stage = Reg.wrote 0 ∧ t.t = Reg.wrote 0
      else t.phase = s.phase ∧ t.stage = s.stage ∧ t.t = s.t) ∧
    t.rsp = none ∧ KeepsBut [.b, .fill, .ps, .lk, .phase, .stage, .t] s t

/-! ### The compressor's micro-operations -/

/-- R150, R64: WLOAD makes `W[i]` the big-endian word of buffer bytes `4i` to `4i + 3` for `i` in 0..15 and leaves
`W[16..63]`; WEXT 16 is next. -/
def Obligations.WloadLoadsBigEndianWords : Prop :=
  ∀ s : State, (s.phase = Phase.compress → s.stage.val = 0 → decodeSel s.sw = .ok .wload) ∧
    ∃ t, exec .wload s = .next t ∧
    (∀ (i : Nat) (_ : i < 16), t.w[i] = Reg.wrote
      (s.b[4 * i].val ++ s.b[4 * i + 1].val ++ s.b[4 * i + 2].val ++ s.b[4 * i + 3].val)) ∧
    (∀ i : Fin 64, 16 ≤ i.val → t.w[i] = s.w[i]) ∧
    t.phase = Phase.compress ∧ t.stage = Reg.wrote 1 ∧ t.t = Reg.wrote 16 ∧
    t.rsp = none ∧ KeepsBut [.w, .phase, .stage, .t] s t

/-- R151: WEXT with `T` in 16..63 writes `W[T]` and no other schedule word; after `T = 63` VINIT is next, else `T` counts
on. -/
def Obligations.WextDerivesScheduleWord : Prop :=
  ∀ s : State, (s.phase = Phase.compress → s.stage.val = 1 → decodeSel s.sw = .ok .wext) ∧
    (16 ≤ s.t.val → ∃ t, exec .wext s = .next t ∧
    t.wWord s.t.val = ssig1 (s.wWord (s.t.val - 2)) + s.wWord (s.t.val - 7) + ssig0 (s.wWord (s.t.val - 15))
      + s.wWord (s.t.val - 16) ∧
    (∀ i : Fin 64, i.val = s.t.val.toNat → t.w[i].written = true) ∧
    (∀ i : Fin 64, i.val ≠ s.t.val.toNat → t.w[i] = s.w[i]) ∧
    (if s.t.val = 63 then t.phase = Phase.compress ∧ t.stage = Reg.wrote 2 ∧ t.t = Reg.wrote 0
      else t.phase = s.phase ∧ t.stage = s.stage ∧ t.t = Reg.wrote (s.t.val + 1)) ∧
    t.rsp = none ∧ KeepsBut [.w, .phase, .stage, .t] s t)

/-- The model's choice (log 8), from the operand range 16..63 of R151: WEXT with `T` below 16 stops, since no word `W[T - 16]`
exists. -/
def Obligations.WextStopsBelowItsRange : Prop :=
  ∀ s : State, s.t.val < 16 → exec .wext s = .fault (.scheduleIndex s.t.val)

/-- R152: VINIT copies H into the working variables; ROUND 0 is next. -/
def Obligations.VinitCopiesRunningState : Prop :=
  ∀ s : State, (s.phase = Phase.compress → s.stage.val = 2 → decodeSel s.sw = .ok .vinit) ∧
    ∃ t, exec .vinit s = .next t ∧ (∀ i : Fin 8, t.v[i] = Reg.wrote s.h[i].val) ∧
    t.phase = Phase.compress ∧ t.stage = Reg.wrote 3 ∧ t.t = Reg.wrote 0 ∧
    t.rsp = none ∧ KeepsBut [.v, .phase, .stage, .t] s t

/-- R153: ROUND with round constant `K[T]` and schedule word `W[T]`; after `T = 63` HFOLD is next, else `T` counts on. -/
def Obligations.RoundUpdatesWorkingVariables : Prop :=
  ∀ s : State, (s.phase = Phase.compress → s.stage.val = 3 → decodeSel s.sw = .ok .round) ∧
    ∃ t, exec .round s = .next t ∧
    (let t1 := s.vWord 7 + bsig1 (s.vWord 4) + ch (s.vWord 4) (s.vWord 5) (s.vWord 6) + kAt s.t.val + s.wWord s.t.val
     let t2 := bsig0 (s.vWord 0) + maj (s.vWord 0) (s.vWord 1) (s.vWord 2)
     t.vWord 7 = s.vWord 6 ∧ t.vWord 6 = s.vWord 5 ∧ t.vWord 5 = s.vWord 4 ∧ t.vWord 4 = s.vWord 3 + t1 ∧
     t.vWord 3 = s.vWord 2 ∧ t.vWord 2 = s.vWord 1 ∧ t.vWord 1 = s.vWord 0 ∧ t.vWord 0 = t1 + t2) ∧
    (∀ i : Fin 8, t.v[i].written = true) ∧
    (if s.t.val = 63 then t.phase = Phase.compress ∧ t.stage = Reg.wrote 4 ∧ t.t = Reg.wrote 0
      else t.phase = s.phase ∧ t.stage = s.stage ∧ t.t = Reg.wrote (s.t.val + 1)) ∧
    t.rsp = none ∧ KeepsBut [.v, .phase, .stage, .t] s t

/-- R154: HFOLD adds the working variables into H word by word modulo 2^32 and chooses the next phase by FIN and PS. -/
def Obligations.HfoldAddsBackAndLeaves : Prop :=
  ∀ s : State, (s.phase = Phase.compress → s.stage.val = 4 → decodeSel s.sw = .ok .hfold) ∧
    ∃ t, exec .hfold s = .next t ∧
    (∀ i : Fin 8, t.h[i].val.toNat = (s.h[i].val.toNat + s.v[i].val.toNat) % 2 ^ 32 ∧ t.h[i].written = true) ∧
    t.stage = Reg.wrote 0 ∧ t.t = Reg.wrote 0 ∧
    (s.fin.val = 0 → t.phase = Phase.absorb) ∧
    (s.fin.val = 1 → s.ps.val = 3 → t.phase = Phase.done) ∧
    (s.fin.val = 1 → s.ps.val ≠ 3 → t.phase = Phase.pad) ∧
    t.rsp = none ∧ KeepsBut [.h, .phase, .stage, .t] s t

/-! ### Views, tables and word functions -/

/-- R34, R30: the fields of the status word. -/
def Obligations.StatusWordFields : Prop :=
  ∀ s : State, s.status.extractLsb' 0 3 = s.phase ∧
    (s.status.extractLsb' 3 1 = 1 ↔ s.phase = Phase.done) ∧ (s.status.extractLsb' 4 1 = 1 ↔ s.phase = Phase.fault) ∧
    s.status.extractLsb' 5 3 = 0 ∧ s.status.extractLsb' 8 4 = s.fcode ∧ s.status.extractLsb' 12 4 = 0 ∧
    s.status.extractLsb' 16 6 = s.fill ∧ s.status.extractLsb' 22 10 = 0

/-- R170, R181, R66, R67: the digest bytes and the hex characters, read by index, are those of the 256-bit value
`H[0] ‖ ... ‖ H[7]` by position. -/
def Obligations.ViewsAreTheDigestValue : Prop :=
  ∀ s : State, (∀ i : BitVec 5, s.dig i = digestByte s.hWords i.toNat) ∧
    (∀ j : BitVec 6, s.hex j = hexDigit s.hWords j.toNat)

/-- R180, R183: the character table by its formula, and that it is injective. -/
def Obligations.HexTableIsLowercaseAscii : Prop :=
  (∀ n : BitVec 4, (hexRomAt n).toNat = if n.toNat ≤ 9 then 0x30 + n.toNat else 0x61 + (n.toNat - 10)) ∧
    ∀ m n : BitVec 4, hexRomAt m = hexRomAt n → m = n

/-- R142, R141: the constant tables. The 64 printed values of K; and each is the first 32 bits of the fractional part of the
cube root of its prime among the first 64 (2 to 311): with `n` the whole part of `2^32` times that root, the last 32 bits of
`n`. The eight words of IV likewise from the square roots of the first eight primes. -/
def Obligations.ConstantTables : Prop :=
  (List.range 64).map (fun t => kAt (BitVec.ofNat 6 t)) =
    [0x428a2f98, 0x71374491, 0xb5c0fbcf, 0xe9b5dba5, 0x3956c25b, 0x59f111f1, 0x923f82a4, 0xab1c5ed5] ++
    [0xd807aa98, 0x12835b01, 0x243185be, 0x550c7dc3, 0x72be5d74, 0x80deb1fe, 0x9bdc06a7, 0xc19bf174] ++
    [0xe49b69c1, 0xefbe4786, 0x0fc19dc6, 0x240ca1cc, 0x2de92c6f, 0x4a7484aa, 0x5cb0a9dc, 0x76f988da] ++
    [0x983e5152, 0xa831c66d, 0xb00327c8, 0xbf597fc7, 0xc6e00bf3, 0xd5a79147, 0x06ca6351, 0x14292967] ++
    [0x27b70a85, 0x2e1b2138, 0x4d2c6dfc, 0x53380d13, 0x650a7354, 0x766a0abb, 0x81c2c92e, 0x92722c85] ++
    [0xa2bfe8a1, 0xa81a664b, 0xc24b8b70, 0xc76c51a3, 0xd192e819, 0xd6990624, 0xf40e3585, 0x106aa070] ++
    [0x19a4c116, 0x1e376c08, 0x2748774c, 0x34b0bcb5, 0x391c0cb3, 0x4ed8aa4a, 0x5b9cca4f, 0x682e6ff3] ++
    [0x748f82ee, 0x78a5636f, 0x84c87814, 0x8cc70208, 0x90befffa, 0xa4506ceb, 0xbef9a3f7, 0xc67178f2] ∧
  iv.toList = [0x6a09e667, 0xbb67ae85, 0x3c6ef372, 0xa54ff53a, 0x510e527f, 0x9b05688c, 0x1f83d9ab, 0x5be0cd19] ∧
  firstPrimes.length = 64 ∧
  (∀ t : Nat, t < 64 → ∃ n : Nat, n ^ 3 ≤ firstPrimes.getD t 0 * 2 ^ 96 ∧ firstPrimes.getD t 0 * 2 ^ 96 < (n + 1) ^ 3 ∧
    kAt (BitVec.ofNat 6 t) = BitVec.ofNat 32 n) ∧
  ∀ i : Nat, ∀ _ : i < 8, ∃ n : Nat, n ^ 2 ≤ firstPrimes.getD i 0 * 2 ^ 64 ∧
    firstPrimes.getD i 0 * 2 ^ 64 < (n + 1) ^ 2 ∧ iv[i] = BitVec.ofNat 32 n

/-- R143 to R149: the word functions bit by bit: ROTR moves bit `i + n` (modulo 32) to bit `i`, SHR fills with zeros, Ch
chooses, Maj is what at least two inputs have, and bit `i` of a sigma function is the exclusive or of the bits that its
amounts name (SHR's bit is zero beyond the word). -/
def Obligations.WordFunctionsBitByBit : Prop :=
  ∀ (x y z : Word) (n i : Nat), 0 < n → n < 32 → i < 32 →
    (rotr x n).getLsbD i = x.getLsbD ((i + n) % 32) ∧
    (shr x n).getLsbD i = (decide (i + n < 32) && x.getLsbD (i + n)) ∧
    (ch x y z).getLsbD i = (if x.getLsbD i then y.getLsbD i else z.getLsbD i) ∧
    (maj x y z).getLsbD i =
      decide (2 ≤ (x.getLsbD i).toNat + (y.getLsbD i).toNat + (z.getLsbD i).toNat) ∧
    (bsig0 x).getLsbD i = (x.getLsbD ((i + 2) % 32) ^^ x.getLsbD ((i + 13) % 32) ^^ x.getLsbD ((i + 22) % 32)) ∧
    (bsig1 x).getLsbD i = (x.getLsbD ((i + 6) % 32) ^^ x.getLsbD ((i + 11) % 32) ^^ x.getLsbD ((i + 25) % 32)) ∧
    (ssig0 x).getLsbD i = (x.getLsbD ((i + 7) % 32) ^^ x.getLsbD ((i + 18) % 32) ^^
      (decide (i + 3 < 32) && x.getLsbD (i + 3))) ∧
    (ssig1 x).getLsbD i = (x.getLsbD ((i + 17) % 32) ^^ x.getLsbD ((i + 19) % 32) ^^
      (decide (i + 10 < 32) && x.getLsbD (i + 10)))

/-- R121, R122: the padded length is a whole number of blocks, `64 * ceil((8n + 65) / 512)` bytes; the zero bytes are the
fewest that bring the length to 56 modulo 64; and `Pad(M)` is the message, the marker, the zeros and, for a message of at most
2^61 - 1 bytes (beyond that the length is out of scope, log 21), the eight bytes of its bit length, most significant first. -/
def Obligations.PaddedLength : Prop :=
  (∀ m : List Byte, (pad m).length = m.length + 1 + zeroCount m.length + 8 ∧
    (pad m).length = 64 * blockCount m.length ∧ (pad m).take m.length = m ∧ (pad m)[m.length]? = some 0x80 ∧
    (∀ k, k < zeroCount m.length → (pad m)[m.length + 1 + k]? = some 0x00) ∧
    (m.length ≤ Config.maxMsgBytes → 8 * m.length < 2 ^ 64 ∧
      ∀ i, i < 8 → (pad m)[m.length + 1 + zeroCount m.length + i]? =
        some (BitVec.ofNat 8 (8 * m.length / 2 ^ (56 - 8 * i))))) ∧
  ∀ n : Nat, zeroCount n < 64 ∧ (n + 1 + zeroCount n) % 64 = 56 ∧ (∀ z, (n + 1 + z) % 64 = 56 → zeroCount n ≤ z) ∧
    blockCount n = (n + 8) / 64 + 1

/-! ### Encoding -/

/-- R95, R96: decoding an encoded instruction gives it back, for every instruction and every operand. -/
def Obligations.DecodeInvertsEncode : Prop :=
  ∀ i : Instr, decode (encode i) = .ok i ∧
    WellFormed (match encode i with | .cmd _ => .cmd | .sel _ => .seq) i = true

/-- R95: each legal command word has one meaning: a word that decodes is the encoding of what it decodes to. -/
def Obligations.EncodeInvertsDecodeCmd : Prop :=
  ∀ (c : CmdWord) (i : Instr), decodeCmd c = .ok i → encode i = .cmd c

/-- R97: `Legal(c)` is exactly "some row of rule R95 matches `c`"; every opcode but 1 to 7, and every non-zero `z`, is
illegal. -/
def Obligations.LegalIsDecodable : Prop :=
  ∀ c : CmdWord, (legal c = true ↔ ∃ i, decodeCmd c = .ok i) ∧
    (c.extractLsb' 12 4 = 0 ∨ 8 ≤ c.extractLsb' 12 4 ∨ c.extractLsb' 8 4 ≠ 0 → legal c = false)

/-- R95, R96: the rows of each map are disjoint: no word selects two rows. -/
def Obligations.RowsAreDisjoint : Prop :=
  (∀ c : CmdWord, (cmdRows.filter fun r => r.selects c).length ≤ 1) ∧
    ∀ sw : SelWord, (selRows.filter fun r => r.selects sw).length ≤ 1

/-- R96, R92: in COMPRESS the stage alone selects the micro-operation, in PAD the pad stage alone; the other bits are
ignored. -/
def Obligations.SelectorIgnoresOtherBits : Prop :=
  (∀ p : BitVec 2, decodeSel (2#3 ++ 0#3 ++ p) = .ok .wload ∧ decodeSel (2#3 ++ 1#3 ++ p) = .ok .wext ∧
    decodeSel (2#3 ++ 2#3 ++ p) = .ok .vinit ∧ decodeSel (2#3 ++ 3#3 ++ p) = .ok .round ∧
    decodeSel (2#3 ++ 4#3 ++ p) = .ok .hfold) ∧
  ∀ st : BitVec 3, decodeSel (3#3 ++ st ++ 0#2) = .ok .pad80 ∧ decodeSel (3#3 ++ st ++ 1#2) = .ok .pad00 ∧
    decodeSel (3#3 ++ st ++ 2#2) = .ok .padlen

/-- R95, 95_test_vectors section 2.1: a few words written out bit by bit from the patterns. -/
def Obligations.SampleWordsDecode : Prop :=
  decodeCmd 0b0001000000000000 = .ok .init ∧ decodeCmd 0b0010000001100001 = .ok (.absorb 0x61) ∧
  decodeCmd 0b0011000000000000 = .ok .final ∧ decodeCmd 0b0100000000000000 = .ok .rdstat ∧
  decodeCmd 0b0101000000000111 = .ok (.rdh 7) ∧ decodeCmd 0b0110000000011111 = .ok (.rddig 31) ∧
  decodeCmd 0b0111000000111111 = .ok (.rdhex 63) ∧ legal 0x0000 = false ∧ legal 0xffff = false

/-- R102: what the pseudo-instructions expand to: ABSORBW the four bytes of a 32-bit value, most significant first; ABSORBS one
ABSORB a byte, or InvalidEncoding; RDSTATE, RDDIGEST and RDHEXSTR every index in order; HASH the whole procedure. -/
def Obligations.PseudoInstructionsExpand : Prop :=
  (∀ w : Nat, w < 2 ^ 32 → assemble (.absorbw w) = .ok
    [offer (wordAbsorb (BitVec.ofNat 8 (w / 2 ^ 24))), offer (wordAbsorb (BitVec.ofNat 8 (w / 2 ^ 16))),
      offer (wordAbsorb (BitVec.ofNat 8 (w / 2 ^ 8))), offer (wordAbsorb (BitVec.ofNat 8 w))]) ∧
  (∀ w : Nat, 2 ^ 32 ≤ w → assemble (.absorbw w) = .error .operandRange) ∧
  assemble (.absorbs none) = .error .invalidEncoding ∧
  (∀ m : List Byte, ∃ l, assemble (.absorbs (some m)) = .ok l ∧ l.length = m.length ∧
    ∀ k : Nat, l[k]? = (m[k]?).map fun b => offer (wordAbsorb b)) ∧
  (∃ l, assemble .rdstate = .ok l ∧ l.length = 8 ∧ ∀ i, i < 8 → l[i]? = some (offer (wordRdh i))) ∧
  (∃ l, assemble .rddigest = .ok l ∧ l.length = 32 ∧ ∀ i, i < 32 → l[i]? = some (offer (wordRddig i))) ∧
  (∃ l, assemble .rdhexstr = .ok l ∧ l.length = 64 ∧ ∀ j, j < 64 → l[j]? = some (offer (wordRdhex j))) ∧
  ∀ m : List Byte, m.length ≤ Config.maxMsgBytes →
    assemble (.hash (some m)) = .ok (offer wordInit :: ((m.map fun b => offer (wordAbsorb b)) ++ [offer wordFinal] ++
      (List.range 64).map fun j => offer (wordRdhex j)))

/-- R101: the assembler's word for each command line decodes to that command, for every operand in its range; `.word w` is the
16-bit word as it stands; RESET is no word but the reset event; and an operand out of range is an error. -/
def Obligations.AssembledWordsDecode : Prop :=
  (assemble .init = .ok [offer 0x1000] ∧ decodeCmd 0x1000 = .ok .init) ∧
  (assemble .final = .ok [offer 0x3000] ∧ decodeCmd 0x3000 = .ok .final) ∧
  (assemble .rdstat = .ok [offer 0x4000] ∧ decodeCmd 0x4000 = .ok .rdstat) ∧
  assemble .reset = .ok [⟨true, none⟩] ∧
  (∀ w : CmdWord, assemble (.word w.toNat) = .ok [offer w]) ∧
  (∀ b : Byte, assemble (.absorb b.toNat) = .ok [offer (wordAbsorb b)] ∧ decodeCmd (wordAbsorb b) = .ok (.absorb b)) ∧
  (∀ i : BitVec 3, assemble (.rdh i.toNat) = .ok [offer (wordRdh i.toNat)] ∧
    decodeCmd (wordRdh i.toNat) = .ok (.rdh i)) ∧
  (∀ i : BitVec 5, assemble (.rddig i.toNat) = .ok [offer (wordRddig i.toNat)] ∧
    decodeCmd (wordRddig i.toNat) = .ok (.rddig i)) ∧
  (∀ j : BitVec 6, assemble (.rdhex j.toNat) = .ok [offer (wordRdhex j.toNat)] ∧
    decodeCmd (wordRdhex j.toNat) = .ok (.rdhex j)) ∧
  (∀ n, 256 ≤ n → assemble (.absorb n) = .error .operandRange) ∧
  (∀ n, 8 ≤ n → assemble (.rdh n) = .error .operandRange) ∧
  (∀ n, 32 ≤ n → assemble (.rddig n) = .error .operandRange) ∧
  (∀ n, 64 ≤ n → assemble (.rdhex n) = .error .operandRange) ∧
  (∀ n, 2 ^ 16 ≤ n → assemble (.word n) = .error .operandRange)

/-! ### The whole machine -/

/-- The invariant holds at reset (10_state R45, R44). -/
def Obligations.ResetMeetsInv : Prop := CoreInv State.reset

/-- R45: every step of the machine, whoever takes it, keeps the invariant; from every state that meets it, not only from
those a run reaches. -/
def Obligations.StepKeepsInv : Prop := ∀ s t : State, CoreInv s → step s = .next t → CoreInv t

/-- R14, R158, R45: in a state that meets the invariant every step goes on: no command leaves the machine without a next
state, and no micro-operation fails. (Where nobody can move, in IDLE, ABSORB, DONE and FAULT with nothing offered, these rules
give no step; that the model's step answers the same registers there is its choice, log 5.) -/
def Obligations.InvStepGoesOn : Prop := ∀ s : State, CoreInv s → GoesOn s

/-- R42: no step reads a register that holds NOVALUE: two states that agree on everything written since reset, in one of which
the invariant holds, step alike, to states that agree again and give the same response. So nothing that a run shows rests on
the bits the model puts beside a NOVALUE mark (log 1). -/
def Obligations.NoValueIsNeverRead : Prop :=
  ∀ s t s' : State, CoreInv s → Agree s t → step s = .next s' → ∃ t', step t = .next t' ∧ Agree s' t'

/-- R20, column "written by": an instruction writes no register but those the table lists it for (fault entry included for a
command); a micro-operation in the states whose selector word selects it. -/
def Obligations.InstructionsWriteOnlyTheirRegisters : Prop :=
  ∀ (i : Instr) (s t : State), (i.format = .seq → decodeSel s.sw = .ok i) → exec i s = .next t →
    KeepsBut (mayWrite i) s t

/-- R216: without reset phase FAULT is never left, and its code and FILL stay. -/
def Obligations.FaultIsSticky : Prop :=
  ∀ s t : State, NoResetNow s → s.phase = Phase.fault → step s = .next t →
    t.phase = Phase.fault ∧ t.fcode = s.fcode ∧ t.fill = s.fill

/-- R30: DV is 1 exactly in DONE, FLT exactly in FAULT. DV becomes 1 only by the HFOLD that ends a hash and returns to 0 only
by INIT, fault entry or reset; FLT becomes 1 only when an offered word is accepted (fault entry, FCODE then 1, 2 or 3) and
returns to 0 only by reset. -/
def Obligations.FlagsRiseOnlyWhereStated : Prop :=
  ∀ s t : State, step s = .next t →
    (t.dv = 1 ↔ t.phase = Phase.done) ∧ (t.flt = 1 ↔ t.phase = Phase.fault) ∧
    (s.dv = 0 → t.dv = 1 → s.phase = Phase.compress ∧ s.stage.val = Stage.hfold ∧ s.fin.val = 1 ∧ s.ps.val = 3) ∧
    (s.dv = 1 → t.dv = 0 → (∃ o rest, s.host = ⟨true, o⟩ :: rest) ∨
      ∃ c rest, Offers s c rest ∧ (decodeCmd c = .ok .init ∨ t.flt = 1)) ∧
    (s.flt = 0 → t.flt = 1 → (∃ c rest, Offers s c rest) ∧ Decodes s.phase ∧ 1 ≤ t.fcode ∧ t.fcode ≤ 3) ∧
    (s.flt = 1 → t.flt = 0 → ∃ o rest, s.host = ⟨true, o⟩ :: rest)

/-- R198: the phase transition table: of the commands, of the micro-operations in the states that select them, and of a step in
which reset is asserted, an illegal word is accepted, a word is accepted in FAULT or a command is held. -/
def Obligations.PhaseTransitionTable : Prop :=
  (∀ (i : Instr) (s t : State), exec i s = .next t →
    (i.format = .cmd → Decodes s.phase → admits i s.phase = false → t.phase = Phase.fault) ∧
    (Decodes s.phase → i = .init → t.phase = Phase.absorb) ∧
    (Decodes s.phase → i = .rdstat → t.phase = s.phase) ∧
    (s.phase = Phase.absorb → ∀ b, i = .absorb b → t.phase =
      if s.len.val = 0xfffffffffffffff8 then Phase.fault else if s.fill = 63 then Phase.compress else Phase.absorb) ∧
    (s.phase = Phase.absorb → i = .final → t.phase = Phase.pad) ∧
    (admits i s.phase = true → (∃ k, i = .rdh k) ∨ (∃ k, i = .rddig k) ∨ (∃ k, i = .rdhex k) →
      t.phase = s.phase) ∧
    (i.format = .cmd → s.phase = Phase.fault → t.phase = Phase.fault) ∧
    (decodeSel s.sw = .ok i → i = .wload ∨ i = .wext ∨ i = .vinit ∨ i = .round → t.phase = Phase.compress) ∧
    (i = .hfold → t.phase =
      if s.fin.val = 0 then Phase.absorb else if s.ps.val = 3 then Phase.done else Phase.pad) ∧
    (decodeSel s.sw = .ok i → i = .pad80 ∨ i = .pad00 ∨ i = .padlen → t.phase =
      if s.fill = 63 then Phase.compress else Phase.pad)) ∧
  ∀ s t : State, step s = .next t →
    (∀ o rest, s.host = ⟨true, o⟩ :: rest → t.phase = Phase.idle) ∧
    ∀ c rest, Offers s c rest →
      (Decodes s.phase → legal c = false → t.phase = Phase.fault) ∧
      (s.phase = Phase.fault → t.phase = Phase.fault) ∧
      (seqBusy s.phase = true → t.rsp = none ∧ ∃ r resets, t.host = ⟨r, some ⟨c, resets⟩⟩ :: rest)

/-- R155, R158, R140: from WLOAD, with the host waiting, 115 steps compress the block in the buffer into the running state;
the phase then is the one HFOLD chooses, and the registers the compressor does not own are as before. -/
def Obligations.BlockIsCompressedIn115Steps : Prop :=
  ∀ s : State, s.phase = Phase.compress → s.stage.val = Stage.wload → HostWaits s →
    ∃ t, steps 115 s = .next t ∧ t.hWords = compress s.hWords s.block ∧
      t.phase = (if s.fin.val = 0 then Phase.absorb else if s.ps.val = 3 then Phase.done else Phase.pad) ∧
      t.rsp = none ∧ KeepsBut [.h, .v, .w, .phase, .stage, .t] s t

/-- R130: after FINAL the sequencer reaches DONE after exactly `(1 + z + 8) + 115 * c` micro-operations, and not before; that is
from 124 (fill level 55) to 302 (fill level 56). After an ABSORB that fills a block it is back in ABSORB after exactly 115. -/
def Obligations.FinalReachesDoneInStatedSteps : Prop :=
  (∀ s : State, s.phase = Phase.pad → s.fin.val = 1 → s.ps.val = PadStage.mark → s.lk.val = 0 → HostWaits s →
    (∃ t, steps (finalUops s.fill.toNat) s = .next t ∧ t.phase = Phase.done) ∧
    ∀ k, k < finalUops s.fill.toNat → ∃ t, steps k s = .next t ∧ seqBusy t.phase = true) ∧
  (∀ f : BitVec 6, 124 ≤ finalUops f.toNat ∧ finalUops f.toNat ≤ 302) ∧ finalUops 55 = 124 ∧ finalUops 56 = 302 ∧
  ∀ (b : Byte) (s t : State), s.phase = Phase.absorb → s.fill = 63 → s.fin.val = 0 →
    s.len.val ≠ 0xfffffffffffffff8 → HostWaits s → exec (.absorb b) s = .next t →
    (∃ u, steps 115 t = .next u ∧ u.phase = Phase.absorb) ∧
    ∀ k, k < 115 → ∃ u, steps k t = .next u ∧ u.phase = Phase.compress

/-- R244, R130: a hold always ends: while the host waits, a busy sequencer is back in ABSORB or DONE after at most 302
steps. -/
def Obligations.HoldAlwaysEnds : Prop :=
  ∀ s : State, CoreInv s → seqBusy s.phase = true → HostWaits s →
    ∃ k, k ≤ 302 ∧ ∃ t, steps k s = .next t ∧ (t.phase = Phase.absorb ∨ t.phase = Phase.done) ∧ t.host = s.host

/-- R129, R155, R192, R250, R46: from every state in IDLE, ABSORB or DONE, whatever its registers hold, a host that offers INIT,
the bytes of a message of at most 2^61 - 1 bytes and FINAL finds, after exactly the stated number of steps, phase DONE and in
H the fold of Compress over the blocks of `Pad(M)` from `IV`. -/
def Obligations.HashOfEveryMessage : Prop :=
  ∀ (m : List Byte) (s : State) (rest : List HostInput), m.length ≤ Config.maxMsgBytes → Decodes s.phase →
    s.host = hashInputs m ++ rest → (rest = [] ∨ ∃ c later, rest = ⟨false, some ⟨c, []⟩⟩ :: later) →
    ∃ t, steps (m.length + 2 + hashUops m.length) s = .next t ∧ t.phase = Phase.done ∧ t.hWords = hashOf m ∧
      t.fill = 0 ∧ t.len.val.toNat = 8 * m.length ∧ t.host = rest

/-- R192, R193, R182, R181: the whole procedure digestHex. On a CORE that is not in FAULT, a message of at most 2^61 - 1 bytes
gives the procedure's commands; the 64 responses to its reads are the 64 characters of the hex string of the message's digest,
in order; and the procedure returns that string, from IDLE, ABSORB and DONE, and from COMPRESS and PAD where its first command
is held. In FAULT, and for a longer message, it offers no command (which error that is, is log 22); a text with no well-formed
encoding is InvalidEncoding. -/
def Obligations.DigestHexAnswersHexString : Prop :=
  (∀ (m : List Byte) (s : State), m.length ≤ Config.maxMsgBytes → s.phase ≠ Phase.fault →
    digestHexInputs (some m) s = .ok (hashInputs m ++ readHex)) ∧
  (∀ (m : List Byte) (s : State) (ins : List HostInput), digestHexInputs (some m) s = .ok ins → Decodes s.phase →
    s.host = ins → ∀ j, j < 64 → ∃ t, steps (m.length + 2 + hashUops m.length + (j + 1)) s = .next t ∧
      t.rsp = some (((hexString m).getD j 0).setWidth 32) ∧ t.phase = Phase.done) ∧
  (∀ (m : List Byte) (s : State), m.length ≤ Config.maxMsgBytes →
    Decodes s.phase ∨ (CoreInv s ∧ seqBusy s.phase = true) → digestHex (some m) s = .ok (hexString m)) ∧
  (∀ (m : List Byte) (s : State), s.phase = Phase.fault → digestHex (some m) s = .error .faulted) ∧
  (∀ (m : List Byte) (s : State), s.phase ≠ Phase.fault → Config.maxMsgBytes < m.length →
    digestHex (some m) s = .error .messageTooLong) ∧
  ∀ s : State, digestHex none s = .error .invalidEncoding
end

