-- ==== Sys2Proof/Laws/State.lean ====
section
/-! SUPPORT. One lemma a field a register write: what a write changes and what it leaves. All true by unfolding, so that no
later proof unfolds a record update. -/

namespace Sys2Proof.Machine

/-! ### `setH` -/

@[simp] theorem State.setH_h (s : State) (f : Vector (Reg 32) 8) : (s.setH f).h = f := rfl
@[simp] theorem State.setH_v (s : State) (f : Vector (Reg 32) 8) : (s.setH f).v = s.v := rfl
@[simp] theorem State.setH_w (s : State) (f : Vector (Reg 32) 8) : (s.setH f).w = s.w := rfl
@[simp] theorem State.setH_b (s : State) (f : Vector (Reg 32) 8) : (s.setH f).b = s.b := rfl
@[simp] theorem State.setH_len (s : State) (f : Vector (Reg 32) 8) : (s.setH f).len = s.len := rfl
@[simp] theorem State.setH_fill (s : State) (f : Vector (Reg 32) 8) : (s.setH f).fill = s.fill := rfl
@[simp] theorem State.setH_phase (s : State) (f : Vector (Reg 32) 8) : (s.setH f).phase = s.phase := rfl
@[simp] theorem State.setH_stage (s : State) (f : Vector (Reg 32) 8) : (s.setH f).stage = s.stage := rfl
@[simp] theorem State.setH_t (s : State) (f : Vector (Reg 32) 8) : (s.setH f).t = s.t := rfl
@[simp] theorem State.setH_fin (s : State) (f : Vector (Reg 32) 8) : (s.setH f).fin = s.fin := rfl
@[simp] theorem State.setH_ps (s : State) (f : Vector (Reg 32) 8) : (s.setH f).ps = s.ps := rfl
@[simp] theorem State.setH_lk (s : State) (f : Vector (Reg 32) 8) : (s.setH f).lk = s.lk := rfl
@[simp] theorem State.setH_fcode (s : State) (f : Vector (Reg 32) 8) : (s.setH f).fcode = s.fcode := rfl
@[simp] theorem State.setH_host (s : State) (f : Vector (Reg 32) 8) : (s.setH f).host = s.host := rfl
@[simp] theorem State.setH_rsp (s : State) (f : Vector (Reg 32) 8) : (s.setH f).rsp = s.rsp := rfl

/-! ### `setV` -/

@[simp] theorem State.setV_h (s : State) (f : Vector (Reg 32) 8) : (s.setV f).h = s.h := rfl
@[simp] theorem State.setV_v (s : State) (f : Vector (Reg 32) 8) : (s.setV f).v = f := rfl
@[simp] theorem State.setV_w (s : State) (f : Vector (Reg 32) 8) : (s.setV f).w = s.w := rfl
@[simp] theorem State.setV_b (s : State) (f : Vector (Reg 32) 8) : (s.setV f).b = s.b := rfl
@[simp] theorem State.setV_len (s : State) (f : Vector (Reg 32) 8) : (s.setV f).len = s.len := rfl
@[simp] theorem State.setV_fill (s : State) (f : Vector (Reg 32) 8) : (s.setV f).fill = s.fill := rfl
@[simp] theorem State.setV_phase (s : State) (f : Vector (Reg 32) 8) : (s.setV f).phase = s.phase := rfl
@[simp] theorem State.setV_stage (s : State) (f : Vector (Reg 32) 8) : (s.setV f).stage = s.stage := rfl
@[simp] theorem State.setV_t (s : State) (f : Vector (Reg 32) 8) : (s.setV f).t = s.t := rfl
@[simp] theorem State.setV_fin (s : State) (f : Vector (Reg 32) 8) : (s.setV f).fin = s.fin := rfl
@[simp] theorem State.setV_ps (s : State) (f : Vector (Reg 32) 8) : (s.setV f).ps = s.ps := rfl
@[simp] theorem State.setV_lk (s : State) (f : Vector (Reg 32) 8) : (s.setV f).lk = s.lk := rfl
@[simp] theorem State.setV_fcode (s : State) (f : Vector (Reg 32) 8) : (s.setV f).fcode = s.fcode := rfl
@[simp] theorem State.setV_host (s : State) (f : Vector (Reg 32) 8) : (s.setV f).host = s.host := rfl
@[simp] theorem State.setV_rsp (s : State) (f : Vector (Reg 32) 8) : (s.setV f).rsp = s.rsp := rfl

/-! ### `setW` -/

@[simp] theorem State.setW_h (s : State) (f : Vector (Reg 32) 64) : (s.setW f).h = s.h := rfl
@[simp] theorem State.setW_v (s : State) (f : Vector (Reg 32) 64) : (s.setW f).v = s.v := rfl
@[simp] theorem State.setW_w (s : State) (f : Vector (Reg 32) 64) : (s.setW f).w = f := rfl
@[simp] theorem State.setW_b (s : State) (f : Vector (Reg 32) 64) : (s.setW f).b = s.b := rfl
@[simp] theorem State.setW_len (s : State) (f : Vector (Reg 32) 64) : (s.setW f).len = s.len := rfl
@[simp] theorem State.setW_fill (s : State) (f : Vector (Reg 32) 64) : (s.setW f).fill = s.fill := rfl
@[simp] theorem State.setW_phase (s : State) (f : Vector (Reg 32) 64) : (s.setW f).phase = s.phase := rfl
@[simp] theorem State.setW_stage (s : State) (f : Vector (Reg 32) 64) : (s.setW f).stage = s.stage := rfl
@[simp] theorem State.setW_t (s : State) (f : Vector (Reg 32) 64) : (s.setW f).t = s.t := rfl
@[simp] theorem State.setW_fin (s : State) (f : Vector (Reg 32) 64) : (s.setW f).fin = s.fin := rfl
@[simp] theorem State.setW_ps (s : State) (f : Vector (Reg 32) 64) : (s.setW f).ps = s.ps := rfl
@[simp] theorem State.setW_lk (s : State) (f : Vector (Reg 32) 64) : (s.setW f).lk = s.lk := rfl
@[simp] theorem State.setW_fcode (s : State) (f : Vector (Reg 32) 64) : (s.setW f).fcode = s.fcode := rfl
@[simp] theorem State.setW_host (s : State) (f : Vector (Reg 32) 64) : (s.setW f).host = s.host := rfl
@[simp] theorem State.setW_rsp (s : State) (f : Vector (Reg 32) 64) : (s.setW f).rsp = s.rsp := rfl

/-! ### `setB` -/

@[simp] theorem State.setB_h (s : State) (f : Vector (Reg 8) 64) : (s.setB f).h = s.h := rfl
@[simp] theorem State.setB_v (s : State) (f : Vector (Reg 8) 64) : (s.setB f).v = s.v := rfl
@[simp] theorem State.setB_w (s : State) (f : Vector (Reg 8) 64) : (s.setB f).w = s.w := rfl
@[simp] theorem State.setB_b (s : State) (f : Vector (Reg 8) 64) : (s.setB f).b = f := rfl
@[simp] theorem State.setB_len (s : State) (f : Vector (Reg 8) 64) : (s.setB f).len = s.len := rfl
@[simp] theorem State.setB_fill (s : State) (f : Vector (Reg 8) 64) : (s.setB f).fill = s.fill := rfl
@[simp] theorem State.setB_phase (s : State) (f : Vector (Reg 8) 64) : (s.setB f).phase = s.phase := rfl
@[simp] theorem State.setB_stage (s : State) (f : Vector (Reg 8) 64) : (s.setB f).stage = s.stage := rfl
@[simp] theorem State.setB_t (s : State) (f : Vector (Reg 8) 64) : (s.setB f).t = s.t := rfl
@[simp] theorem State.setB_fin (s : State) (f : Vector (Reg 8) 64) : (s.setB f).fin = s.fin := rfl
@[simp] theorem State.setB_ps (s : State) (f : Vector (Reg 8) 64) : (s.setB f).ps = s.ps := rfl
@[simp] theorem State.setB_lk (s : State) (f : Vector (Reg 8) 64) : (s.setB f).lk = s.lk := rfl
@[simp] theorem State.setB_fcode (s : State) (f : Vector (Reg 8) 64) : (s.setB f).fcode = s.fcode := rfl
@[simp] theorem State.setB_host (s : State) (f : Vector (Reg 8) 64) : (s.setB f).host = s.host := rfl
@[simp] theorem State.setB_rsp (s : State) (f : Vector (Reg 8) 64) : (s.setB f).rsp = s.rsp := rfl

/-! ### `setLen` -/

@[simp] theorem State.setLen_h (s : State) (x : BitVec 64) : (s.setLen x).h = s.h := rfl
@[simp] theorem State.setLen_v (s : State) (x : BitVec 64) : (s.setLen x).v = s.v := rfl
@[simp] theorem State.setLen_w (s : State) (x : BitVec 64) : (s.setLen x).w = s.w := rfl
@[simp] theorem State.setLen_b (s : State) (x : BitVec 64) : (s.setLen x).b = s.b := rfl
@[simp] theorem State.setLen_len (s : State) (x : BitVec 64) : (s.setLen x).len = Reg.wrote x := rfl
@[simp] theorem State.setLen_fill (s : State) (x : BitVec 64) : (s.setLen x).fill = s.fill := rfl
@[simp] theorem State.setLen_phase (s : State) (x : BitVec 64) : (s.setLen x).phase = s.phase := rfl
@[simp] theorem State.setLen_stage (s : State) (x : BitVec 64) : (s.setLen x).stage = s.stage := rfl
@[simp] theorem State.setLen_t (s : State) (x : BitVec 64) : (s.setLen x).t = s.t := rfl
@[simp] theorem State.setLen_fin (s : State) (x : BitVec 64) : (s.setLen x).fin = s.fin := rfl
@[simp] theorem State.setLen_ps (s : State) (x : BitVec 64) : (s.setLen x).ps = s.ps := rfl
@[simp] theorem State.setLen_lk (s : State) (x : BitVec 64) : (s.setLen x).lk = s.lk := rfl
@[simp] theorem State.setLen_fcode (s : State) (x : BitVec 64) : (s.setLen x).fcode = s.fcode := rfl
@[simp] theorem State.setLen_host (s : State) (x : BitVec 64) : (s.setLen x).host = s.host := rfl
@[simp] theorem State.setLen_rsp (s : State) (x : BitVec 64) : (s.setLen x).rsp = s.rsp := rfl

/-! ### `setFill` -/

@[simp] theorem State.setFill_h (s : State) (x : BitVec 6) : (s.setFill x).h = s.h := rfl
@[simp] theorem State.setFill_v (s : State) (x : BitVec 6) : (s.setFill x).v = s.v := rfl
@[simp] theorem State.setFill_w (s : State) (x : BitVec 6) : (s.setFill x).w = s.w := rfl
@[simp] theorem State.setFill_b (s : State) (x : BitVec 6) : (s.setFill x).b = s.b := rfl
@[simp] theorem State.setFill_len (s : State) (x : BitVec 6) : (s.setFill x).len = s.len := rfl
@[simp] theorem State.setFill_fill (s : State) (x : BitVec 6) : (s.setFill x).fill = x := rfl
@[simp] theorem State.setFill_phase (s : State) (x : BitVec 6) : (s.setFill x).phase = s.phase := rfl
@[simp] theorem State.setFill_stage (s : State) (x : BitVec 6) : (s.setFill x).stage = s.stage := rfl
@[simp] theorem State.setFill_t (s : State) (x : BitVec 6) : (s.setFill x).t = s.t := rfl
@[simp] theorem State.setFill_fin (s : State) (x : BitVec 6) : (s.setFill x).fin = s.fin := rfl
@[simp] theorem State.setFill_ps (s : State) (x : BitVec 6) : (s.setFill x).ps = s.ps := rfl
@[simp] theorem State.setFill_lk (s : State) (x : BitVec 6) : (s.setFill x).lk = s.lk := rfl
@[simp] theorem State.setFill_fcode (s : State) (x : BitVec 6) : (s.setFill x).fcode = s.fcode := rfl
@[simp] theorem State.setFill_host (s : State) (x : BitVec 6) : (s.setFill x).host = s.host := rfl
@[simp] theorem State.setFill_rsp (s : State) (x : BitVec 6) : (s.setFill x).rsp = s.rsp := rfl

/-! ### `setPhase` -/

@[simp] theorem State.setPhase_h (s : State) (x : BitVec 3) : (s.setPhase x).h = s.h := rfl
@[simp] theorem State.setPhase_v (s : State) (x : BitVec 3) : (s.setPhase x).v = s.v := rfl
@[simp] theorem State.setPhase_w (s : State) (x : BitVec 3) : (s.setPhase x).w = s.w := rfl
@[simp] theorem State.setPhase_b (s : State) (x : BitVec 3) : (s.setPhase x).b = s.b := rfl
@[simp] theorem State.setPhase_len (s : State) (x : BitVec 3) : (s.setPhase x).len = s.len := rfl
@[simp] theorem State.setPhase_fill (s : State) (x : BitVec 3) : (s.setPhase x).fill = s.fill := rfl
@[simp] theorem State.setPhase_phase (s : State) (x : BitVec 3) : (s.setPhase x).phase = x := rfl
@[simp] theorem State.setPhase_stage (s : State) (x : BitVec 3) : (s.setPhase x).stage = s.stage := rfl
@[simp] theorem State.setPhase_t (s : State) (x : BitVec 3) : (s.setPhase x).t = s.t := rfl
@[simp] theorem State.setPhase_fin (s : State) (x : BitVec 3) : (s.setPhase x).fin = s.fin := rfl
@[simp] theorem State.setPhase_ps (s : State) (x : BitVec 3) : (s.setPhase x).ps = s.ps := rfl
@[simp] theorem State.setPhase_lk (s : State) (x : BitVec 3) : (s.setPhase x).lk = s.lk := rfl
@[simp] theorem State.setPhase_fcode (s : State) (x : BitVec 3) : (s.setPhase x).fcode = s.fcode := rfl
@[simp] theorem State.setPhase_host (s : State) (x : BitVec 3) : (s.setPhase x).host = s.host := rfl
@[simp] theorem State.setPhase_rsp (s : State) (x : BitVec 3) : (s.setPhase x).rsp = s.rsp := rfl

/-! ### `setStage` -/

@[simp] theorem State.setStage_h (s : State) (x : BitVec 3) : (s.setStage x).h = s.h := rfl
@[simp] theorem State.setStage_v (s : State) (x : BitVec 3) : (s.setStage x).v = s.v := rfl
@[simp] theorem State.setStage_w (s : State) (x : BitVec 3) : (s.setStage x).w = s.w := rfl
@[simp] theorem State.setStage_b (s : State) (x : BitVec 3) : (s.setStage x).b = s.b := rfl
@[simp] theorem State.setStage_len (s : State) (x : BitVec 3) : (s.setStage x).len = s.len := rfl
@[simp] theorem State.setStage_fill (s : State) (x : BitVec 3) : (s.setStage x).fill = s.fill := rfl
@[simp] theorem State.setStage_phase (s : State) (x : BitVec 3) : (s.setStage x).phase = s.phase := rfl
@[simp] theorem State.setStage_stage (s : State) (x : BitVec 3) : (s.setStage x).stage = Reg.wrote x := rfl
@[simp] theorem State.setStage_t (s : State) (x : BitVec 3) : (s.setStage x).t = s.t := rfl
@[simp] theorem State.setStage_fin (s : State) (x : BitVec 3) : (s.setStage x).fin = s.fin := rfl
@[simp] theorem State.setStage_ps (s : State) (x : BitVec 3) : (s.setStage x).ps = s.ps := rfl
@[simp] theorem State.setStage_lk (s : State) (x : BitVec 3) : (s.setStage x).lk = s.lk := rfl
@[simp] theorem State.setStage_fcode (s : State) (x : BitVec 3) : (s.setStage x).fcode = s.fcode := rfl
@[simp] theorem State.setStage_host (s : State) (x : BitVec 3) : (s.setStage x).host = s.host := rfl
@[simp] theorem State.setStage_rsp (s : State) (x : BitVec 3) : (s.setStage x).rsp = s.rsp := rfl

/-! ### `setT` -/

@[simp] theorem State.setT_h (s : State) (x : BitVec 6) : (s.setT x).h = s.h := rfl
@[simp] theorem State.setT_v (s : State) (x : BitVec 6) : (s.setT x).v = s.v := rfl
@[simp] theorem State.setT_w (s : State) (x : BitVec 6) : (s.setT x).w = s.w := rfl
@[simp] theorem State.setT_b (s : State) (x : BitVec 6) : (s.setT x).b = s.b := rfl
@[simp] theorem State.setT_len (s : State) (x : BitVec 6) : (s.setT x).len = s.len := rfl
@[simp] theorem State.setT_fill (s : State) (x : BitVec 6) : (s.setT x).fill = s.fill := rfl
@[simp] theorem State.setT_phase (s : State) (x : BitVec 6) : (s.setT x).phase = s.phase := rfl
@[simp] theorem State.setT_stage (s : State) (x : BitVec 6) : (s.setT x).stage = s.stage := rfl
@[simp] theorem State.setT_t (s : State) (x : BitVec 6) : (s.setT x).t = Reg.wrote x := rfl
@[simp] theorem State.setT_fin (s : State) (x : BitVec 6) : (s.setT x).fin = s.fin := rfl
@[simp] theorem State.setT_ps (s : State) (x : BitVec 6) : (s.setT x).ps = s.ps := rfl
@[simp] theorem State.setT_lk (s : State) (x : BitVec 6) : (s.setT x).lk = s.lk := rfl
@[simp] theorem State.setT_fcode (s : State) (x : BitVec 6) : (s.setT x).fcode = s.fcode := rfl
@[simp] theorem State.setT_host (s : State) (x : BitVec 6) : (s.setT x).host = s.host := rfl
@[simp] theorem State.setT_rsp (s : State) (x : BitVec 6) : (s.setT x).rsp = s.rsp := rfl

/-! ### `setFin` -/

@[simp] theorem State.setFin_h (s : State) (x : BitVec 1) : (s.setFin x).h = s.h := rfl
@[simp] theorem State.setFin_v (s : State) (x : BitVec 1) : (s.setFin x).v = s.v := rfl
@[simp] theorem State.setFin_w (s : State) (x : BitVec 1) : (s.setFin x).w = s.w := rfl
@[simp] theorem State.setFin_b (s : State) (x : BitVec 1) : (s.setFin x).b = s.b := rfl
@[simp] theorem State.setFin_len (s : State) (x : BitVec 1) : (s.setFin x).len = s.len := rfl
@[simp] theorem State.setFin_fill (s : State) (x : BitVec 1) : (s.setFin x).fill = s.fill := rfl
@[simp] theorem State.setFin_phase (s : State) (x : BitVec 1) : (s.setFin x).phase = s.phase := rfl
@[simp] theorem State.setFin_stage (s : State) (x : BitVec 1) : (s.setFin x).stage = s.stage := rfl
@[simp] theorem State.setFin_t (s : State) (x : BitVec 1) : (s.setFin x).t = s.t := rfl
@[simp] theorem State.setFin_fin (s : State) (x : BitVec 1) : (s.setFin x).fin = Reg.wrote x := rfl
@[simp] theorem State.setFin_ps (s : State) (x : BitVec 1) : (s.setFin x).ps = s.ps := rfl
@[simp] theorem State.setFin_lk (s : State) (x : BitVec 1) : (s.setFin x).lk = s.lk := rfl
@[simp] theorem State.setFin_fcode (s : State) (x : BitVec 1) : (s.setFin x).fcode = s.fcode := rfl
@[simp] theorem State.setFin_host (s : State) (x : BitVec 1) : (s.setFin x).host = s.host := rfl
@[simp] theorem State.setFin_rsp (s : State) (x : BitVec 1) : (s.setFin x).rsp = s.rsp := rfl

/-! ### `setPs` -/

@[simp] theorem State.setPs_h (s : State) (x : BitVec 2) : (s.setPs x).h = s.h := rfl
@[simp] theorem State.setPs_v (s : State) (x : BitVec 2) : (s.setPs x).v = s.v := rfl
@[simp] theorem State.setPs_w (s : State) (x : BitVec 2) : (s.setPs x).w = s.w := rfl
@[simp] theorem State.setPs_b (s : State) (x : BitVec 2) : (s.setPs x).b = s.b := rfl
@[simp] theorem State.setPs_len (s : State) (x : BitVec 2) : (s.setPs x).len = s.len := rfl
@[simp] theorem State.setPs_fill (s : State) (x : BitVec 2) : (s.setPs x).fill = s.fill := rfl
@[simp] theorem State.setPs_phase (s : State) (x : BitVec 2) : (s.setPs x).phase = s.phase := rfl
@[simp] theorem State.setPs_stage (s : State) (x : BitVec 2) : (s.setPs x).stage = s.stage := rfl
@[simp] theorem State.setPs_t (s : State) (x : BitVec 2) : (s.setPs x).t = s.t := rfl
@[simp] theorem State.setPs_fin (s : State) (x : BitVec 2) : (s.setPs x).fin = s.fin := rfl
@[simp] theorem State.setPs_ps (s : State) (x : BitVec 2) : (s.setPs x).ps = Reg.wrote x := rfl
@[simp] theorem State.setPs_lk (s : State) (x : BitVec 2) : (s.setPs x).lk = s.lk := rfl
@[simp] theorem State.setPs_fcode (s : State) (x : BitVec 2) : (s.setPs x).fcode = s.fcode := rfl
@[simp] theorem State.setPs_host (s : State) (x : BitVec 2) : (s.setPs x).host = s.host := rfl
@[simp] theorem State.setPs_rsp (s : State) (x : BitVec 2) : (s.setPs x).rsp = s.rsp := rfl

/-! ### `setLk` -/

@[simp] theorem State.setLk_h (s : State) (x : BitVec 3) : (s.setLk x).h = s.h := rfl
@[simp] theorem State.setLk_v (s : State) (x : BitVec 3) : (s.setLk x).v = s.v := rfl
@[simp] theorem State.setLk_w (s : State) (x : BitVec 3) : (s.setLk x).w = s.w := rfl
@[simp] theorem State.setLk_b (s : State) (x : BitVec 3) : (s.setLk x).b = s.b := rfl
@[simp] theorem State.setLk_len (s : State) (x : BitVec 3) : (s.setLk x).len = s.len := rfl
@[simp] theorem State.setLk_fill (s : State) (x : BitVec 3) : (s.setLk x).fill = s.fill := rfl
@[simp] theorem State.setLk_phase (s : State) (x : BitVec 3) : (s.setLk x).phase = s.phase := rfl
@[simp] theorem State.setLk_stage (s : State) (x : BitVec 3) : (s.setLk x).stage = s.stage := rfl
@[simp] theorem State.setLk_t (s : State) (x : BitVec 3) : (s.setLk x).t = s.t := rfl
@[simp] theorem State.setLk_fin (s : State) (x : BitVec 3) : (s.setLk x).fin = s.fin := rfl
@[simp] theorem State.setLk_ps (s : State) (x : BitVec 3) : (s.setLk x).ps = s.ps := rfl
@[simp] theorem State.setLk_lk (s : State) (x : BitVec 3) : (s.setLk x).lk = Reg.wrote x := rfl
@[simp] theorem State.setLk_fcode (s : State) (x : BitVec 3) : (s.setLk x).fcode = s.fcode := rfl
@[simp] theorem State.setLk_host (s : State) (x : BitVec 3) : (s.setLk x).host = s.host := rfl
@[simp] theorem State.setLk_rsp (s : State) (x : BitVec 3) : (s.setLk x).rsp = s.rsp := rfl

/-! ### `setFcode` -/

@[simp] theorem State.setFcode_h (s : State) (x : BitVec 4) : (s.setFcode x).h = s.h := rfl
@[simp] theorem State.setFcode_v (s : State) (x : BitVec 4) : (s.setFcode x).v = s.v := rfl
@[simp] theorem State.setFcode_w (s : State) (x : BitVec 4) : (s.setFcode x).w = s.w := rfl
@[simp] theorem State.setFcode_b (s : State) (x : BitVec 4) : (s.setFcode x).b = s.b := rfl
@[simp] theorem State.setFcode_len (s : State) (x : BitVec 4) : (s.setFcode x).len = s.len := rfl
@[simp] theorem State.setFcode_fill (s : State) (x : BitVec 4) : (s.setFcode x).fill = s.fill := rfl
@[simp] theorem State.setFcode_phase (s : State) (x : BitVec 4) : (s.setFcode x).phase = s.phase := rfl
@[simp] theorem State.setFcode_stage (s : State) (x : BitVec 4) : (s.setFcode x).stage = s.stage := rfl
@[simp] theorem State.setFcode_t (s : State) (x : BitVec 4) : (s.setFcode x).t = s.t := rfl
@[simp] theorem State.setFcode_fin (s : State) (x : BitVec 4) : (s.setFcode x).fin = s.fin := rfl
@[simp] theorem State.setFcode_ps (s : State) (x : BitVec 4) : (s.setFcode x).ps = s.ps := rfl
@[simp] theorem State.setFcode_lk (s : State) (x : BitVec 4) : (s.setFcode x).lk = s.lk := rfl
@[simp] theorem State.setFcode_fcode (s : State) (x : BitVec 4) : (s.setFcode x).fcode = x := rfl
@[simp] theorem State.setFcode_host (s : State) (x : BitVec 4) : (s.setFcode x).host = s.host := rfl
@[simp] theorem State.setFcode_rsp (s : State) (x : BitVec 4) : (s.setFcode x).rsp = s.rsp := rfl

/-! ### `setHost` -/

@[simp] theorem State.setHost_h (s : State) (x : List HostInput) : (s.setHost x).h = s.h := rfl
@[simp] theorem State.setHost_v (s : State) (x : List HostInput) : (s.setHost x).v = s.v := rfl
@[simp] theorem State.setHost_w (s : State) (x : List HostInput) : (s.setHost x).w = s.w := rfl
@[simp] theorem State.setHost_b (s : State) (x : List HostInput) : (s.setHost x).b = s.b := rfl
@[simp] theorem State.setHost_len (s : State) (x : List HostInput) : (s.setHost x).len = s.len := rfl
@[simp] theorem State.setHost_fill (s : State) (x : List HostInput) : (s.setHost x).fill = s.fill := rfl
@[simp] theorem State.setHost_phase (s : State) (x : List HostInput) : (s.setHost x).phase = s.phase := rfl
@[simp] theorem State.setHost_stage (s : State) (x : List HostInput) : (s.setHost x).stage = s.stage := rfl
@[simp] theorem State.setHost_t (s : State) (x : List HostInput) : (s.setHost x).t = s.t := rfl
@[simp] theorem State.setHost_fin (s : State) (x : List HostInput) : (s.setHost x).fin = s.fin := rfl
@[simp] theorem State.setHost_ps (s : State) (x : List HostInput) : (s.setHost x).ps = s.ps := rfl
@[simp] theorem State.setHost_lk (s : State) (x : List HostInput) : (s.setHost x).lk = s.lk := rfl
@[simp] theorem State.setHost_fcode (s : State) (x : List HostInput) : (s.setHost x).fcode = s.fcode := rfl
@[simp] theorem State.setHost_host (s : State) (x : List HostInput) : (s.setHost x).host = x := rfl
@[simp] theorem State.setHost_rsp (s : State) (x : List HostInput) : (s.setHost x).rsp = s.rsp := rfl

/-! ### `setRsp` -/

@[simp] theorem State.setRsp_h (s : State) (x : Option Word) : (s.setRsp x).h = s.h := rfl
@[simp] theorem State.setRsp_v (s : State) (x : Option Word) : (s.setRsp x).v = s.v := rfl
@[simp] theorem State.setRsp_w (s : State) (x : Option Word) : (s.setRsp x).w = s.w := rfl
@[simp] theorem State.setRsp_b (s : State) (x : Option Word) : (s.setRsp x).b = s.b := rfl
@[simp] theorem State.setRsp_len (s : State) (x : Option Word) : (s.setRsp x).len = s.len := rfl
@[simp] theorem State.setRsp_fill (s : State) (x : Option Word) : (s.setRsp x).fill = s.fill := rfl
@[simp] theorem State.setRsp_phase (s : State) (x : Option Word) : (s.setRsp x).phase = s.phase := rfl
@[simp] theorem State.setRsp_stage (s : State) (x : Option Word) : (s.setRsp x).stage = s.stage := rfl
@[simp] theorem State.setRsp_t (s : State) (x : Option Word) : (s.setRsp x).t = s.t := rfl
@[simp] theorem State.setRsp_fin (s : State) (x : Option Word) : (s.setRsp x).fin = s.fin := rfl
@[simp] theorem State.setRsp_ps (s : State) (x : Option Word) : (s.setRsp x).ps = s.ps := rfl
@[simp] theorem State.setRsp_lk (s : State) (x : Option Word) : (s.setRsp x).lk = s.lk := rfl
@[simp] theorem State.setRsp_fcode (s : State) (x : Option Word) : (s.setRsp x).fcode = s.fcode := rfl
@[simp] theorem State.setRsp_host (s : State) (x : Option Word) : (s.setRsp x).host = s.host := rfl
@[simp] theorem State.setRsp_rsp (s : State) (x : Option Word) : (s.setRsp x).rsp = x := rfl

/-! ### Registers -/

@[simp] theorem Reg.wrote_val {n : Nat} (x : BitVec n) : (Reg.wrote x).val = x := rfl
@[simp] theorem Reg.wrote_written {n : Nat} (x : BitVec n) : (Reg.wrote x).written = true := rfl
@[simp] theorem Reg.noValue_written {n : Nat} : (Reg.noValue : Reg n).written = false := rfl

end Sys2Proof.Machine
end

