-- ==== Sys2Proof/Laws/Ops.lean ====
section
/-! SUPPORT. What each shared operation can do, said once: `seq`, the responses, fault entry, the reset event, the byte path
and the phase check of a command. Proofs cite these and do not unfold the operations. -/

namespace Sys2Proof.Machine

/-! ### Operations that are register writes one after another -/

@[simp] theorem State.seq_eq (s : State) (p st : BitVec 3) (x : BitVec 6) :
    s.seq p st x = ((s.setPhase p).setStage st).setT x := rfl

@[simp] theorem State.respond_eq (s : State) (x : Word) : s.respond x = s.setRsp (some x) := rfl

@[simp] theorem State.respondStatus_eq (s : State) : s.respondStatus = s.setRsp (some s.status) := rfl

@[simp] theorem State.silent_eq (s : State) : s.silent = s.setRsp none := rfl

@[simp] theorem State.writeByte_eq (s : State) (i : BitVec 6) (x : Byte) :
    s.writeByte i x = s.setB (s.b.set i.toNat (Reg.wrote x) i.isLt) := rfl

@[simp] theorem State.writeSchedule_eq (s : State) (i : BitVec 6) (x : Word) :
    s.writeSchedule i x = s.setW (s.w.set i.toNat (Reg.wrote x) i.isLt) := rfl

/-- The status word depends on PHASE, FCODE and FILL alone (R34). -/
theorem State.status_congr {s t : State} (hp : s.phase = t.phase) (hc : s.fcode = t.fcode) (hf : s.fill = t.fill) :
    s.status = t.status := by
  simp [State.status, State.dv, State.flt, hp, hc, hf]

@[simp] theorem State.setHost_setHost (s : State) (x y : List HostInput) : (s.setHost x).setHost y = s.setHost y := rfl

@[simp] theorem State.setHost_host_self (s : State) : s.setHost s.host = s := rfl

/-- Fault entry changes PHASE, FCODE and the response, and nothing else (R215). -/
theorem raise_raised (c : Cause) (s : State) : Raised c s (s.raise c) := by
  refine ⟨rfl, rfl, rfl, ?_, rfl⟩
  intro r hr
  cases r <;> first | rfl | exact absurd (by simp) hr

/-! ### The byte path (R123) -/

theorem bufAppend_full {s : State} (h : s.fill = 63) (x : Byte) :
    s.bufAppend x = ((s.writeByte s.fill x).setFill 0).seq Phase.compress Stage.wload 0 := if_pos h

theorem bufAppend_room {s : State} (h : s.fill ≠ 63) (x : Byte) :
    s.bufAppend x = (s.writeByte s.fill x).setFill (s.fill + 1) := if_neg h

/-- FILL counts modulo 64. -/
theorem bufAppend_fill (s : State) (x : Byte) : (s.bufAppend x).fill = s.fill + 1 := by
  by_cases h : s.fill = 63
  · rw [bufAppend_full h, h]; rfl
  · rw [bufAppend_room h]; rfl

@[simp] theorem bufAppend_b (s : State) (x : Byte) :
    (s.bufAppend x).b = s.b.set s.fill.toNat (Reg.wrote x) s.fill.isLt := by
  unfold State.bufAppend; split <;> rfl

theorem bufAppend_phase (s : State) (x : Byte) :
    (s.bufAppend x).phase = if s.fill = 63 then Phase.compress else s.phase := by
  unfold State.bufAppend; split <;> rfl

theorem bufAppend_stage (s : State) (x : Byte) :
    (s.bufAppend x).stage = if s.fill = 63 then Reg.wrote 0 else s.stage := by
  unfold State.bufAppend; split <;> rfl

theorem bufAppend_t (s : State) (x : Byte) : (s.bufAppend x).t = if s.fill = 63 then Reg.wrote 0 else s.t := by
  unfold State.bufAppend; split <;> rfl

@[simp] theorem bufAppend_h (s : State) (x : Byte) : (s.bufAppend x).h = s.h := by
  unfold State.bufAppend; split <;> rfl
@[simp] theorem bufAppend_v (s : State) (x : Byte) : (s.bufAppend x).v = s.v := by
  unfold State.bufAppend; split <;> rfl
@[simp] theorem bufAppend_w (s : State) (x : Byte) : (s.bufAppend x).w = s.w := by
  unfold State.bufAppend; split <;> rfl
@[simp] theorem bufAppend_len (s : State) (x : Byte) : (s.bufAppend x).len = s.len := by
  unfold State.bufAppend; split <;> rfl
@[simp] theorem bufAppend_fin (s : State) (x : Byte) : (s.bufAppend x).fin = s.fin := by
  unfold State.bufAppend; split <;> rfl
@[simp] theorem bufAppend_ps (s : State) (x : Byte) : (s.bufAppend x).ps = s.ps := by
  unfold State.bufAppend; split <;> rfl
@[simp] theorem bufAppend_lk (s : State) (x : Byte) : (s.bufAppend x).lk = s.lk := by
  unfold State.bufAppend; split <;> rfl
@[simp] theorem bufAppend_fcode (s : State) (x : Byte) : (s.bufAppend x).fcode = s.fcode := by
  unfold State.bufAppend; split <;> rfl
@[simp] theorem bufAppend_host (s : State) (x : Byte) : (s.bufAppend x).host = s.host := by
  unfold State.bufAppend; split <;> rfl
@[simp] theorem bufAppend_rsp (s : State) (x : Byte) : (s.bufAppend x).rsp = s.rsp := by
  unfold State.bufAppend; split <;> rfl

/-! ### The phase check of a command (R100) -/

theorem Decodes.ready {p : BitVec 3} (h : Decodes p) : cmdReady p = true ∧ seqBusy p = false ∧ p ≠ Phase.fault := by
  rcases h with rfl | rfl | rfl <;> decide

theorem command_admitted {adm : BitVec 3 → Bool} {body : State → State} {s : State} (hp : Decodes s.phase)
    (ha : adm s.phase = true) : command adm body s = .next (body s) := by
  obtain ⟨hr, hb, hf⟩ := hp.ready
  rw [command, if_neg hf, hb, hr, ha]
  rfl

theorem command_wrongPhase {adm : BitVec 3 → Bool} {body : State → State} {s : State} (hp : Decodes s.phase)
    (ha : adm s.phase = false) : command adm body s = .next (s.raise .badPhase) := by
  obtain ⟨hr, hb, hf⟩ := hp.ready
  rw [command, if_neg hf, hb, hr, ha]
  rfl

theorem command_fault {adm : BitVec 3 → Bool} {body : State → State} {s : State} (hp : s.phase = Phase.fault) :
    command adm body s = .next s.respondStatus := if_pos hp

/-- Everything a command's next state can be. -/
theorem command_cases {adm : BitVec 3 → Bool} {body : State → State} {s t : State}
    (h : command adm body s = .next t) :
    (s.phase = Phase.fault ∧ t = s.respondStatus) ∨ (seqBusy s.phase = true ∧ t = s.silent) ∨
      (Decodes s.phase ∧ adm s.phase = true ∧ t = body s) ∨
      (Decodes s.phase ∧ adm s.phase = false ∧ t = s.raise .badPhase) := by
  unfold command at h
  split at h
  · rename_i hf
    exact .inl ⟨hf, by simpa using h.symm⟩
  split at h
  · rename_i hb
    exact .inr (.inl ⟨hb, by simpa using h.symm⟩)
  split at h
  · cases h
  rename_i hf hb hr
  have hd : Decodes s.phase := by
    simp only [cmdReady, Bool.not_eq_true', Bool.not_eq_false, Bool.or_eq_true, beq_iff_eq] at hr
    rcases hr with ((h0 | h1) | h4) | h5
    · exact .inl h0
    · exact .inr (.inl h1)
    · exact .inr (.inr h4)
    · exact absurd h5 hf
  split at h
  · rename_i ha
    exact .inr (.inr (.inl ⟨hd, ha, by simpa using h.symm⟩))
  · rename_i ha
    exact .inr (.inr (.inr ⟨hd, by simpa using ha, by simpa using h.symm⟩))

end Sys2Proof.Machine
end

