-- ==== Sys2Proof/Laws/Commands.lean ====
section
/-! SUPPORT. What each command answers in a phase that admits it, one equation a command, so that no proof unfolds the phase
check again. -/

namespace Sys2Proof.Machine

theorem exec_init {s : State} (h : Decodes s.phase) :
    exec .init s = .next ((((((((s.setH (Vector.ofFn fun i => Reg.wrote iv[i])).setLen 0).setFill 0).setFin 0).setPs 0).setLk
      0).seq Phase.absorb 0 0).respondStatus) := by
  simp only [exec, execInit]
  rw [command_admitted h (by rcases h with h | h | h <;> rw [h] <;> rfl)]

theorem exec_absorb {s : State} (b : Byte) (h : s.phase = Phase.absorb) :
    exec (.absorb b) s = .next (if s.len.val = lastLen then s.raise .lenOverflow
      else ((s.setLen (s.len.val + 8)).bufAppend b).respondStatus) := by
  simp only [exec, execAbsorb]
  rw [command_admitted (.inr (.inl h)) (by rw [h]; rfl)]

theorem exec_final {s : State} (h : s.phase = Phase.absorb) :
    exec .final s = .next (((((s.setFin 1).setPs PadStage.mark).setLk 0).setPhase Phase.pad).respondStatus) := by
  simp only [exec, execFinal]
  rw [command_admitted (.inr (.inl h)) (by rw [h]; rfl)]

theorem exec_rdstat {s : State} (h : cmdReady s.phase = true) : exec .rdstat s = .next s.respondStatus := by
  have hc : Decodes s.phase ∨ s.phase = Phase.fault := by
    unfold Decodes; revert h; generalize s.phase = p; revert p; decide
  simp only [exec, execRdstat]
  rcases hc with hd | hf
  · rw [command_admitted hd (by rcases hd with h | h | h <;> rw [h] <;> rfl)]
  · rw [command_fault hf]

theorem exec_rdh {s : State} (i : BitVec 3) (h : s.phase = Phase.absorb ∨ s.phase = Phase.done) :
    exec (.rdh i) s = .next (s.respond (s.hWord i)) := by
  simp only [exec, execRdh]
  rw [command_admitted (.inr h) (by rcases h with h | h <;> rw [h] <;> rfl)]

theorem exec_rddig {s : State} (i : BitVec 5) (h : s.phase = Phase.done) :
    exec (.rddig i) s = .next (s.respond ((s.dig i).setWidth 32)) := by
  simp only [exec, execRddig]
  rw [command_admitted (.inr (.inr h)) (by rw [h]; rfl)]

theorem exec_rdhex {s : State} (j : BitVec 6) (h : s.phase = Phase.done) :
    exec (.rdhex j) s = .next (s.respond ((s.hex j).setWidth 32)) := by
  simp only [exec, execRdhex]
  rw [command_admitted (.inr (.inr h)) (by rw [h]; rfl)]

/-- A command word never decodes to a micro-operation (R95). -/
theorem decodeCmd_format {c : CmdWord} {i : Instr} (h : decodeCmd c = .ok i) : i.format = .cmd := by
  unfold decodeCmd at h
  split at h
  · rename_i r hr
    have hm := List.mem_of_find?_eq_some hr
    simp only [cmdRows, List.mem_cons, List.not_mem_nil, or_false] at hm
    simp only [Except.ok.injEq] at h
    rcases hm with rfl | rfl | rfl | rfl | rfl | rfl | rfl <;> subst h <;> rfl
  · cases h

end Sys2Proof.Machine
end

