-- ==== Sys2Proof/Laws/Step.lean ====
section
/-! SUPPORT. What a step of the machine can be, said once: reset, an accepted word, a micro-operation, or nothing. -/

namespace Sys2Proof.Machine

/-- The sequencer's next state: the micro-operation its selector word decodes to. -/
theorem seqStep_cases {s t : State} (h : seqStep s = .next t) : ∃ i, decodeSel s.sw = .ok i ∧ exec i s = .next t := by
  unfold seqStep at h
  split at h
  · rename_i i hi
    exact ⟨i, hi, h⟩
  · cases h

/-- The next state of a step in which the port accepts nothing. -/
theorem quietStep_cases {s t : State} (h : quietStep s = .next t) :
    (seqBusy s.phase = true ∧ ∃ i, decodeSel s.sw = .ok i ∧ exec i s = .next t) ∨
      (seqBusy s.phase = false ∧ cmdReady s.phase = true ∧ t = s.silent) := by
  unfold quietStep at h
  split at h
  · rename_i hb
    exact .inl ⟨hb, seqStep_cases h⟩
  split at h
  · rename_i hb hr
    exact .inr ⟨by simpa using hb, hr, by simpa using h.symm⟩
  · cases h

/-- The next state of a step in which the port accepts a word. -/
theorem acceptStep_cases {c : CmdWord} {s t : State} (h : acceptStep c s = .next t) :
    (s.phase = Phase.fault ∧ t = s.respondStatus) ∨
      (s.phase ≠ Phase.fault ∧ ∃ i, decodeCmd c = .ok i ∧ exec i s = .next t) ∨
      (s.phase ≠ Phase.fault ∧ (∃ e, decodeCmd c = .error e) ∧ t = s.raise .illegalCmd) := by
  unfold acceptStep at h
  split at h
  · rename_i hf
    exact .inl ⟨hf, by simpa using h.symm⟩
  rename_i hf
  split at h
  · rename_i i hi
    exact .inr (.inl ⟨hf, i, hi, h⟩)
  · rename_i e he
    exact .inr (.inr ⟨hf, ⟨e, he⟩, by simpa using h.symm⟩)

/-! ### What the host still does after a step that accepted nothing -/

@[simp] theorem passed_nil : passed [] = [] := rfl

@[simp] theorem passed_none (r : Bool) (rest : List HostInput) : passed (⟨r, none⟩ :: rest) = rest := rfl

@[simp] theorem passed_some (r : Bool) (o : Offer) (rest : List HostInput) :
    passed (⟨r, some o⟩ :: rest) = stillOffered o :: rest := rfl

@[simp] theorem stillOffered_nil (c : CmdWord) : stillOffered ⟨c, []⟩ = ⟨false, some ⟨c, []⟩⟩ := rfl

@[simp] theorem stillOffered_cons (c : CmdWord) (r : Bool) (l : List Bool) :
    stillOffered ⟨c, r :: l⟩ = ⟨r, some ⟨c, l⟩⟩ := rfl

/-- A host that waits goes on waiting in the same way. -/
theorem HostWaits.passed_host {s : State} (h : HostWaits s) : passed s.host = s.host := by
  rcases h with h | ⟨c, rest, h⟩ <;> rw [h] <;> rfl

/-- Everything a step's next state can be. The state on which the instruction runs has the host inputs that remain. -/
theorem step_cases {s t : State} (h : step s = .next t) :
    ((∃ o rest, s.host = ⟨true, o⟩ :: rest) ∧ t = (s.setHost (passed s.host)).resetEvent) ∨
      (∃ c rest, Offers s c rest ∧ cmdReady s.phase = true ∧ acceptStep c (s.setHost rest) = .next t) ∨
      (NoResetNow s ∧ quietStep (s.setHost (passed s.host)) = .next t) := by
  unfold step portStep at h
  split at h
  · rename_i hh
    refine .inr (.inr ⟨by simp [NoResetNow, hh], ?_⟩)
    rw [hh, passed_nil, ← hh]
    exact h
  · rename_i o rest hh
    exact .inl ⟨⟨o, rest, hh⟩, by simpa using h.symm⟩
  · rename_i rest hh
    exact .inr (.inr ⟨by simp [NoResetNow, hh], h⟩)
  · rename_i o rest hh
    split at h
    · rename_i hr
      exact .inr (.inl ⟨o.word, rest, ⟨o.resets, hh⟩, hr, h⟩)
    · exact .inr (.inr ⟨by simp [NoResetNow, hh], h⟩)

/-- A selector word decodes to a micro-operation, and PHASE, STAGE and PS say which (R96). -/
theorem decodeSel_cases {s : State} {i : Instr} (h : decodeSel s.sw = .ok i) :
    (s.phase = Phase.compress ∧ s.stage.val = Stage.wload ∧ i = .wload) ∨
      (s.phase = Phase.compress ∧ s.stage.val = Stage.wext ∧ i = .wext) ∨
      (s.phase = Phase.compress ∧ s.stage.val = Stage.vinit ∧ i = .vinit) ∨
      (s.phase = Phase.compress ∧ s.stage.val = Stage.round ∧ i = .round) ∨
      (s.phase = Phase.compress ∧ s.stage.val = Stage.hfold ∧ i = .hfold) ∨
      (s.phase = Phase.pad ∧ s.ps.val = PadStage.mark ∧ i = .pad80) ∨
      (s.phase = Phase.pad ∧ s.ps.val = PadStage.zero ∧ i = .pad00) ∨
      (s.phase = Phase.pad ∧ s.ps.val = PadStage.length ∧ i = .padlen) := by
  have key : ∀ (p st : BitVec 3) (q : BitVec 2), ∀ j, decodeSel (p ++ st ++ q) = .ok j →
      (p = Phase.compress ∧ st = Stage.wload ∧ j = .wload) ∨ (p = Phase.compress ∧ st = Stage.wext ∧ j = .wext) ∨
      (p = Phase.compress ∧ st = Stage.vinit ∧ j = .vinit) ∨ (p = Phase.compress ∧ st = Stage.round ∧ j = .round) ∨
      (p = Phase.compress ∧ st = Stage.hfold ∧ j = .hfold) ∨ (p = Phase.pad ∧ q = PadStage.mark ∧ j = .pad80) ∨
      (p = Phase.pad ∧ q = PadStage.zero ∧ j = .pad00) ∨ (p = Phase.pad ∧ q = PadStage.length ∧ j = .padlen) := by
    intro p st q j hj
    have table : ∀ (p st : BitVec 3) (q : BitVec 2),
        (match decodeSel (p ++ st ++ q) with
        | .error _ => true
        | .ok j => decide ((p = Phase.compress ∧ st = Stage.wload ∧ j = .wload) ∨
            (p = Phase.compress ∧ st = Stage.wext ∧ j = .wext) ∨ (p = Phase.compress ∧ st = Stage.vinit ∧ j = .vinit) ∨
            (p = Phase.compress ∧ st = Stage.round ∧ j = .round) ∨ (p = Phase.compress ∧ st = Stage.hfold ∧ j = .hfold) ∨
            (p = Phase.pad ∧ q = PadStage.mark ∧ j = .pad80) ∨ (p = Phase.pad ∧ q = PadStage.zero ∧ j = .pad00) ∨
            (p = Phase.pad ∧ q = PadStage.length ∧ j = .padlen))) = true := by decide
    have := table p st q
    rw [hj] at this
    simpa using this
  exact key _ _ _ _ h

/-- The other way round: PHASE, STAGE and PS select the micro-operation. -/
theorem decodeSel_sw (s : State) :
    (s.phase = Phase.compress → s.stage.val = Stage.wload → decodeSel s.sw = .ok .wload) ∧
      (s.phase = Phase.compress → s.stage.val = Stage.wext → decodeSel s.sw = .ok .wext) ∧
      (s.phase = Phase.compress → s.stage.val = Stage.vinit → decodeSel s.sw = .ok .vinit) ∧
      (s.phase = Phase.compress → s.stage.val = Stage.round → decodeSel s.sw = .ok .round) ∧
      (s.phase = Phase.compress → s.stage.val = Stage.hfold → decodeSel s.sw = .ok .hfold) ∧
      (s.phase = Phase.pad → s.ps.val = PadStage.mark → decodeSel s.sw = .ok .pad80) ∧
      (s.phase = Phase.pad → s.ps.val = PadStage.zero → decodeSel s.sw = .ok .pad00) ∧
      (s.phase = Phase.pad → s.ps.val = PadStage.length → decodeSel s.sw = .ok .padlen) := by
  unfold State.sw
  generalize s.stage.val = st
  generalize s.ps.val = q
  refine ⟨?_, ?_, ?_, ?_, ?_, ?_, ?_, ?_⟩ <;> intro hp hx <;> rw [hp, hx]
  · revert q; decide
  · revert q; decide
  · revert q; decide
  · revert q; decide
  · revert q; decide
  · revert st; decide
  · revert st; decide
  · revert st; decide

end Sys2Proof.Machine
end

