-- ==== Sys2Proof/Laws/MicroOps.lean ====
section
/-! SUPPORT. What each micro-operation answers, one equation a micro-operation, and what all of them share: they give no
response and neither read nor write the port. -/

namespace Sys2Proof.Machine

theorem exec_wload (s : State) :
    exec .wload s = .next (((s.setW (Vector.ofFn fun i =>
      if i.val < 16 then Reg.wrote (s.blockWord (BitVec.ofNat 4 i.val)) else s.w[i])).seq
        Phase.compress Stage.wext 16).silent) := by
  simp only [exec, execWload]

/-- The word WEXT writes (R151). -/
abbrev nextScheduleWord (s : State) : Word :=
  extendWord (s.wWord (s.t.val - 2)) (s.wWord (s.t.val - 7)) (s.wWord (s.t.val - 15)) (s.wWord (s.t.val - 16))

theorem exec_wext_last {s : State} (h : s.t.val = 63) :
    exec .wext s = .next (((s.writeSchedule s.t.val (nextScheduleWord s)).seq Phase.compress Stage.vinit 0).silent) := by
  simp only [exec, execWext]
  rw [if_neg (by rw [h]; decide), if_pos h]

theorem exec_wext_more {s : State} (h : 16 ≤ s.t.val) (h' : s.t.val ≠ 63) :
    exec .wext s = .next (((s.writeSchedule s.t.val (nextScheduleWord s)).setT (s.t.val + 1)).silent) := by
  simp only [exec, execWext]
  rw [if_neg (BitVec.not_lt.2 h), if_neg h']

theorem exec_wext_below {s : State} (h : s.t.val < 16) : exec .wext s = .fault (.scheduleIndex s.t.val) := by
  simp only [exec, execWext]
  rw [if_pos h]

theorem exec_vinit (s : State) :
    exec .vinit s = .next (((s.setV (Vector.ofFn fun i => Reg.wrote s.h[i].val)).seq Phase.compress Stage.round
      0).silent) := by
  simp only [exec, execVinit]

theorem exec_round_last {s : State} (h : s.t.val = 63) :
    exec .round s =
      .next (((s.setV (roundVars s (kAt s.t.val) (s.wWord s.t.val))).seq Phase.compress Stage.hfold 0).silent) := by
  simp only [exec, execRound]
  rw [if_pos h]

theorem exec_round_more {s : State} (h : s.t.val ≠ 63) :
    exec .round s = .next (((s.setV (roundVars s (kAt s.t.val) (s.wWord s.t.val))).setT (s.t.val + 1)).silent) := by
  simp only [exec, execRound]
  rw [if_neg h]

theorem exec_hfold (s : State) :
    exec .hfold s = .next (((s.setH (Vector.ofFn fun i => Reg.wrote (s.h[i].val + s.v[i].val))).seq
      (phaseAfterFold s.fin.val s.ps.val) 0 0).silent) := by
  simp only [exec, execHfold]

theorem exec_pad80 (s : State) :
    exec .pad80 s = .next (((s.bufAppend 0x80).setPs (padStageAt (s.fill + 1))).silent) := by
  simp only [exec, execPad80, bufAppend_fill]

theorem exec_pad00 (s : State) :
    exec .pad00 s = .next (((s.bufAppend 0x00).setPs (padStageAt (s.fill + 1))).silent) := by
  simp only [exec, execPad00, bufAppend_fill]

theorem exec_padlen_last {s : State} (h : s.lk.val = 7) :
    exec .padlen s =
      .next (((s.bufAppend (lengthByte s.len.val s.lk.val)).setPs PadStage.ended).silent) := by
  simp only [exec, execPadlen]
  rw [if_pos h]

theorem exec_padlen_more {s : State} (h : s.lk.val ≠ 7) :
    exec .padlen s =
      .next (((s.bufAppend (lengthByte s.len.val s.lk.val)).setLk (s.lk.val + 1)).silent) := by
  simp only [exec, execPadlen]
  rw [if_neg h]

/-- A selector word decodes to a micro-operation only (R92, R96). -/
theorem decodeSel_format {s : State} {i : Instr} (h : decodeSel s.sw = .ok i) : i.format = .seq := by
  rcases decodeSel_cases h with h | h | h | h | h | h | h | h <;> obtain ⟨_, _, rfl⟩ := h <;> rfl

/-- A micro-operation gives no response (00_scope R14). -/
theorem microOp_silent {i : Instr} (hi : i.format = .seq) {s t : State} (h : exec i s = .next t) : t.rsp = none := by
  cases i <;> simp only [Instr.format, reduceCtorEq] at hi
  · rw [exec_wload] at h; cases h; rfl
  · by_cases h16 : s.t.val < 16
    · rw [exec_wext_below h16] at h; cases h
    · by_cases h63 : s.t.val = 63
      · rw [exec_wext_last h63] at h; cases h; rfl
      · rw [exec_wext_more (BitVec.not_lt.1 h16) h63] at h; cases h; rfl
  · rw [exec_vinit] at h; cases h; rfl
  · by_cases h63 : s.t.val = 63
    · rw [exec_round_last h63] at h; cases h; rfl
    · rw [exec_round_more h63] at h; cases h; rfl
  · rw [exec_hfold] at h; cases h; rfl
  · rw [exec_pad80] at h; cases h; rfl
  · rw [exec_pad00] at h; cases h; rfl
  · by_cases h7 : s.lk.val = 7
    · rw [exec_padlen_last h7] at h; cases h; rfl
    · rw [exec_padlen_more h7] at h; cases h; rfl

/-- The byte path does not look at the port. -/
theorem bufAppend_setHost (s : State) (x : Byte) (l : List HostInput) :
    (s.setHost l).bufAppend x = (s.bufAppend x).setHost l := by
  by_cases h : s.fill = 63
  · rw [bufAppend_full h, bufAppend_full (show (s.setHost l).fill = 63 from h)]; rfl
  · rw [bufAppend_room h, bufAppend_room (show (s.setHost l).fill ≠ 63 from h)]; rfl

/-- A micro-operation does not look at what the host does, and does not change it. -/
theorem microOp_setHost {i : Instr} (hi : i.format = .seq) {s t : State} (h : exec i s = .next t)
    (l : List HostInput) : exec i (s.setHost l) = .next (t.setHost l) := by
  cases i <;> simp only [Instr.format, reduceCtorEq] at hi
  · rw [exec_wload] at h ⊢; cases h; rfl
  · by_cases h16 : s.t.val < 16
    · rw [exec_wext_below h16] at h; cases h
    · by_cases h63 : s.t.val = 63
      · rw [exec_wext_last h63] at h
        rw [exec_wext_last (s := s.setHost l) h63]; cases h; rfl
      · rw [exec_wext_more (BitVec.not_lt.1 h16) h63] at h
        rw [exec_wext_more (s := s.setHost l) (BitVec.not_lt.1 h16) h63]; cases h; rfl
  · rw [exec_vinit] at h ⊢; cases h; rfl
  · by_cases h63 : s.t.val = 63
    · rw [exec_round_last h63] at h
      rw [exec_round_last (s := s.setHost l) h63]; cases h; rfl
    · rw [exec_round_more h63] at h
      rw [exec_round_more (s := s.setHost l) h63]; cases h; rfl
  · rw [exec_hfold] at h ⊢; cases h; rfl
  · rw [exec_pad80] at h ⊢; rw [bufAppend_setHost]; cases h; rfl
  · rw [exec_pad00] at h ⊢; rw [bufAppend_setHost]; cases h; rfl
  · by_cases h7 : s.lk.val = 7
    · rw [exec_padlen_last h7] at h
      rw [exec_padlen_last (s := s.setHost l) h7]
      cases h
      show _ = Host.Outcome.next (((s.bufAppend _).setHost l).setPs _).silent
      rw [← bufAppend_setHost]; rfl
    · rw [exec_padlen_more h7] at h
      rw [exec_padlen_more (s := s.setHost l) h7]
      cases h
      show _ = Host.Outcome.next (((s.bufAppend _).setHost l).setLk _).silent
      rw [← bufAppend_setHost]; rfl

end Sys2Proof.Machine
end

