-- ==== Sys2Proof/Laws/PerInstr.lean ====
section
/-! SUPPORT. The family InRow, one lemma a constructor: the encoded word of an instruction stands in exactly one row of its
opcode map (spec 30_encoding R95, R96: "the rows are disjoint"), and a command's word is legal (R97). -/

namespace Sys2Proof.Laws.InRow

/-- How many rows of its map the encoded word selects is one, and a command word is legal. -/
def inOneRow : Encoded → Bool
  | .cmd c => (cmdRows.filter fun r => r.selects c).length == 1 && legal c
  | .sel sw => (selRows.filter fun r => r.selects sw).length == 1

/-- The family's statement about one instruction. -/
def Statement (i : Instr) : Prop := inOneRow (encode i) = true

theorem init : Statement .init := (by decide : inOneRow _ = true)
theorem absorb (b : Byte) : Statement (.absorb b) := by
  revert b; unfold Statement; decide +kernel
theorem final : Statement .final := (by decide : inOneRow _ = true)
theorem rdstat : Statement .rdstat := (by decide : inOneRow _ = true)
theorem rdh (i : BitVec 3) : Statement (.rdh i) := by
  revert i; unfold Statement; decide
theorem rddig (i : BitVec 5) : Statement (.rddig i) := by
  revert i; unfold Statement; decide
theorem rdhex (j : BitVec 6) : Statement (.rdhex j) := by
  revert j; unfold Statement; decide +kernel
theorem wload : Statement .wload := (by decide : inOneRow _ = true)
theorem wext : Statement .wext := (by decide : inOneRow _ = true)
theorem vinit : Statement .vinit := (by decide : inOneRow _ = true)
theorem round : Statement .round := (by decide : inOneRow _ = true)
theorem hfold : Statement .hfold := (by decide : inOneRow _ = true)
theorem pad80 : Statement .pad80 := (by decide : inOneRow _ = true)
theorem pad00 : Statement .pad00 := (by decide : inOneRow _ = true)
theorem padlen : Statement .padlen := (by decide : inOneRow _ = true)

end Sys2Proof.Laws.InRow
end

