-- ==== Sys2Proof/Laws/Runs.lean ====
section
/-! SUPPORT. Runs of several steps: how they are put together, and what a step is while the host waits and the sequencer is
busy. -/

namespace Sys2Proof.Machine

@[simp] theorem steps_zero (s : State) : steps 0 s = .next s := rfl

theorem steps_succ {s t : State} (h : step s = .next t) (n : Nat) : steps (n + 1) s = steps n t := by
  rw [steps, h]

/-- A run of `m + n` steps is a run of `m` followed by a run of `n`. -/
theorem steps_add {s t : State} {m : Nat} (h : steps m s = .next t) (n : Nat) : steps (m + n) s = steps n t := by
  induction m generalizing s with
  | zero =>
    rw [steps_zero] at h
    cases h
    rw [Nat.zero_add]
  | succ m ih =>
    rw [steps] at h
    split at h
    · rename_i u hu
      rw [Nat.succ_add, steps_succ hu]
      exact ih h
    · cases h
    · cases h

/-- While the host waits, a busy sequencer's step is the micro-operation its selector word selects. -/
theorem step_waiting {s : State} {i : Instr} (hw : HostWaits s) (hb : seqBusy s.phase = true)
    (hi : decodeSel s.sw = .ok i) : step s = exec i s := by
  have hr : cmdReady s.phase = false := by
    revert hb
    generalize s.phase = p
    revert p
    decide
  have hp := hw.passed_host
  have hq : step s = quietStep (s.setHost (passed s.host)) := by
    rcases hw with h | ⟨c, rest, h⟩ <;> simp only [step, portStep, h, hr, Bool.false_eq_true, if_false]
    rw [passed_nil, ← h, State.setHost_host_self]
  rw [hq, hp, State.setHost_host_self, quietStep, if_pos hb, seqStep, hi]

/-- A micro-operation leaves the host waiting. -/
theorem microOp_host {i : Instr} (hi : i.format = .seq) {s t : State} (h : exec i s = .next t) : t.host = s.host := by
  have h' := microOp_setHost hi h s.host
  rw [State.setHost_host_self, h] at h'
  injection h' with h'
  rw [h']
  rfl

end Sys2Proof.Machine
end

