-- ==== Sys2Proof/Laws/Procedure.lean ====
section
/-! SUPPORT. What the host's procedure digestHex can answer, and how the responses of a run are put together. -/

namespace Sys2Proof.Machine

theorem hashCommands_short {m : List Byte} (h : m.length ≤ Config.maxMsgBytes) :
    hashCommands (some m) = .ok (hashInputs m ++ readHex) := if_pos h

theorem hashCommands_long {m : List Byte} (h : Config.maxMsgBytes < m.length) :
    hashCommands (some m) = .error .messageTooLong := if_neg (Nat.not_le.2 h)

@[simp] theorem digestHexInputs_none (s : State) : digestHexInputs none s = .error .invalidEncoding := rfl

theorem digestHexInputs_fault (m : List Byte) {s : State} (h : s.phase = Phase.fault) :
    digestHexInputs (some m) s = .error .faulted := if_pos h

theorem digestHexInputs_eq (m : List Byte) {s : State} (h : s.phase ≠ Phase.fault) :
    digestHexInputs (some m) s = hashCommands (some m) := if_neg h

theorem digestHex_error {text : HostText} {s : State} {e : AsmError} (h : digestHexInputs text s = .error e) :
    digestHex text s = .error e := by rw [digestHex, h]

theorem digestHex_ok {m : List Byte} {s : State} {ins : List HostInput} (h : digestHexInputs (some m) s = .ok ins) :
    digestHex (some m) s =
      .ok (hexOfResponses m.length (responses (procedureSteps m.length) (s.setHost ins))) := by
  rw [digestHex, h]
  rfl

@[simp] theorem responses_zero (s : State) : responses 0 s = [] := rfl

theorem responses_succ {s t : State} (h : step s = .next t) (n : Nat) :
    responses (n + 1) s = t.rsp.toList ++ responses n t := by rw [responses, h]

/-- The responses of a run of `m + n` steps are those of its first `m` followed by those of the other `n`. -/
theorem responses_add {s t : State} {m : Nat} (h : steps m s = .next t) (n : Nat) :
    responses (m + n) s = responses m s ++ responses n t := by
  induction m generalizing s with
  | zero =>
    rw [steps_zero] at h
    cases h
    rw [Nat.zero_add, responses_zero, List.nil_append]
  | succ m ih =>
    rw [steps] at h
    split at h
    · rename_i u hu
      rw [Nat.succ_add, responses_succ hu, responses_succ hu, ih h, List.append_assoc]
    · cases h
    · cases h

end Sys2Proof.Machine
end

