-- ==== Sys2Proof/Machine/Notation.lean ====
section
/-! DEFINITION. The assembler notation as text (spec 30_encoding R101, R102): one command a line, a semicolon starts a comment,
numbers are decimal or hexadecimal with 0x, a character in single quotes is its ASCII code. What R101 leaves open of the
spelling is log 14. The encoding of a quoted text is the host's, an argument (44_entry_point R195). -/

namespace Sys2Proof.Machine

/-- The single quote. -/
def quoteMark : Char := Char.ofNat 39

/-- The double quote. -/
def doubleMark : Char := Char.ofNat 34

/-- A blank. -/
def isBlank (c : Char) : Bool := c == ' ' || c == '\t'

/-- The line up to its comment: a semicolon outside quotes starts it. `pending` is the quote that is open, if any. -/
def stripComment (pending : Option Char) : List Char → List Char
  | [] => []
  | c :: rest =>
    match pending with
    | some q => c :: stripComment (if c == q then none else some q) rest
    | none =>
      if c == ';' then []
      else c :: stripComment (if c == quoteMark || c == doubleMark then some c else none) rest

/-- A line without the blanks at its ends. -/
def trim (l : List Char) : List Char := ((l.dropWhile isBlank).reverse.dropWhile isBlank).reverse

/-- The value of a digit, up to hexadecimal. -/
def digitValue (c : Char) : Option Nat :=
  let n := c.toNat
  if 48 ≤ n && n ≤ 57 then some (n - 48)
  else if 97 ≤ n && n ≤ 102 then some (n - 87)
  else if 65 ≤ n && n ≤ 70 then some (n - 55)
  else none

/-- Digits of a base after the value `acc` so far. -/
def digits (base : Nat) : List Char → Nat → Option Nat
  | [], acc => some acc
  | c :: rest, acc =>
    match digitValue c with
    | some d => if d < base then digits base rest (acc * base + d) else none
    | none => none

/-- A character in single quotes is its ASCII code. -/
def quotedChar : List Char → Option Nat
  | [q, c, r] => if q == quoteMark && r == quoteMark && c.toNat < 128 then some c.toNat else none
  | _ => none

/-- A number: decimal, or hexadecimal with 0x. -/
def number : List Char → Option Nat
  | [] => none
  | '0' :: 'x' :: [] => none
  | '0' :: 'x' :: rest => digits 16 rest 0
  | l => digits 10 l 0

/-- An operand: a quoted character or a number. -/
def operand (l : List Char) : Option Nat :=
  match quotedChar l with
  | some n => some n
  | none => number l

/-- A text in double quotes. -/
def quotedText : List Char → Option (List Char)
  | [] => none
  | q :: rest =>
    match rest.reverse with
    | [] => none
    | r :: body => if q == doubleMark && r == doubleMark && !body.contains doubleMark then some body.reverse else none

/-- A line with no operand. -/
def bare (l : Line) (rest : List Char) : Option Line := if rest.isEmpty then some l else none

/-- A line with a numeric operand. -/
def withNumber (mk : Nat → Line) (rest : List Char) : Option Line := (operand rest).map mk

/-- A line with a quoted text, which the host encodes. -/
def withText (encodeText : List Char → HostText) (mk : HostText → Line) (rest : List Char) : Option Line :=
  (quotedText rest).map fun t => mk (encodeText t)

/-- The keywords of R101 and R102. The micro-operations are not among them: "they cannot be assembled". -/
def keywords (encodeText : List Char → HostText) : List (List Char × (List Char → Option Line)) :=
  [ (['I', 'N', 'I', 'T'], bare .init),
    (['A', 'B', 'S', 'O', 'R', 'B'], withNumber .absorb),
    (['F', 'I', 'N', 'A', 'L'], bare .final),
    (['R', 'D', 'S', 'T', 'A', 'T'], bare .rdstat),
    (['R', 'D', 'H'], withNumber .rdh),
    (['R', 'D', 'D', 'I', 'G'], withNumber .rddig),
    (['R', 'D', 'H', 'E', 'X'], withNumber .rdhex),
    (['.', 'w', 'o', 'r', 'd'], withNumber .word),
    (['R', 'E', 'S', 'E', 'T'], bare .reset),
    (['A', 'B', 'S', 'O', 'R', 'B', 'W'], withNumber .absorbw),
    (['A', 'B', 'S', 'O', 'R', 'B', 'S'], withText encodeText .absorbs),
    (['R', 'D', 'S', 'T', 'A', 'T', 'E'], bare .rdstate),
    (['R', 'D', 'D', 'I', 'G', 'E', 'S', 'T'], bare .rddigest),
    (['R', 'D', 'H', 'E', 'X', 'S', 'T', 'R'], bare .rdhexstr),
    (['H', 'A', 'S', 'H'], withText encodeText .hash) ]

/-- One line of text: `none` when it holds no command. -/
def parseLine (encodeText : List Char → HostText) (text : List Char) : Except AsmError (Option Line) :=
  let l := trim (stripComment none text)
  if l.isEmpty then .ok none
  else
    let key := l.takeWhile fun c => !isBlank c
    let rest := (l.dropWhile fun c => !isBlank c).dropWhile isBlank
    match (keywords encodeText).find? fun k => k.1 == key with
    | none => .error .notALine
    | some k =>
      match k.2 rest with
      | none => .error .notALine
      | some line => .ok (some line)

/-- A program as text, line by line: what the host does for it, or the first error. -/
def assembleText (encodeText : List Char → HostText) : List (List Char) → Except AsmError (List HostInput)
  | [] => .ok []
  | text :: later =>
    match parseLine encodeText text with
    | .error e => .error e
    | .ok none => assembleText encodeText later
    | .ok (some line) =>
      match assemble line with
      | .error e => .error e
      | .ok here =>
        match assembleText encodeText later with
        | .error e => .error e
        | .ok rest => .ok (here ++ rest)

end Sys2Proof.Machine
end

