-- ==== Sys2Proof/Tests/Slice0.lean ====
section
/-! SUPPORT. Tests of one step each, with expected values from spec/95_test_vectors.md and from the examples of the rules, the
smoke test of WellFormed and of the notation's ranges, and for every obligation with hypotheses a state that meets them. -/

namespace Sys2Proof.Tests

set_option Elab.async false

open Sys2Proof.Machine

/-! ### Helpers -/

/-- The step went on, to a state of which `p` holds. -/
def after (o : Host.Outcome State Fault Refusal) (p : State → Bool) : Bool :=
  match o with
  | .next t => p t
  | .fault _ => false
  | .refused _ => false

/-- The step stopped with that fault. -/
def stops (o : Host.Outcome State Fault Refusal) (r : Fault) : Bool :=
  match o with
  | .fault q => q == r
  | .next _ => false
  | .refused _ => false

theorem next_of_after {o : Host.Outcome State Fault Refusal} {p : State → Bool} (h : after o p = true) :
    ∃ t, o = .next t ∧ p t = true := by
  cases o with
  | next t => exact ⟨t, rfl, h⟩
  | fault r => cases h
  | refused r => cases h

/-- Every register written with 0, phase IDLE, nothing at the port. -/
def zeros : State where
  h := Vector.replicate 8 (Reg.wrote 0)
  v := Vector.replicate 8 (Reg.wrote 0)
  w := Vector.replicate 64 (Reg.wrote 0)
  b := Vector.replicate 64 (Reg.wrote 0)
  len := Reg.wrote 0
  fill := 0
  phase := 0
  stage := Reg.wrote 0
  t := Reg.wrote 0
  fin := Reg.wrote 0
  ps := Reg.wrote 0
  lk := Reg.wrote 0
  fcode := 0
  host := []
  rsp := none

/-- An open hash: `H = IV`. -/
def opened (fill : BitVec 6) (len : BitVec 64) : State :=
  { zeros with phase := 1, h := iv.map Reg.wrote, fill := fill, len := Reg.wrote len }

/-- A hash that is being padded. -/
def padding (ps : BitVec 2) (lk : BitVec 3) (fill : BitVec 6) (len : BitVec 64) : State :=
  { opened fill len with phase := 3, fin := Reg.wrote 1, ps := Reg.wrote ps, lk := Reg.wrote lk }

/-- The one block of "abc" (95_test_vectors 2.3). -/
def abcBlock : Block :=
  ((((Vector.replicate 64 (0 : Byte)).set 0 0x61).set 1 0x62).set 2 0x63).set 3 0x80 |>.set 63 0x18

/-- The last block of the hash of "abc", in a stage of COMPRESS. -/
def compressing (stage : BitVec 3) (t : BitVec 6) : State :=
  { zeros with
    phase := 2, h := iv.map Reg.wrote, v := iv.map Reg.wrote, b := abcBlock.map Reg.wrote,
    len := Reg.wrote 24, stage := Reg.wrote stage, t := Reg.wrote t,
    fin := Reg.wrote 1, ps := Reg.wrote 3, lk := Reg.wrote 7 }

/-- The synthetic state of 95_test_vectors section 4, in phase DONE. -/
def finished : State :=
  { zeros with
    phase := 4, fin := Reg.wrote 1, ps := Reg.wrote 3,
    h := #v[Reg.wrote 0x00010203, Reg.wrote 0x04050607, Reg.wrote 0x08090a0b, Reg.wrote 0x0c0d0e0f,
      Reg.wrote 0x9abcdef0, Reg.wrote 0xfedcba98, Reg.wrote 0x7fffffff, Reg.wrote 0x80000001] }

/-- Phase FAULT with a code and a fill level. -/
def faulted (code : BitVec 4) (fill : BitVec 6) : State := { zeros with phase := 5, fcode := code, fill := fill }

/-- The host offers one word. -/
def offering (c : CmdWord) (s : State) : State := s.setHost [offer c]

/-- RDSTAT offered while the sequencer compresses, and the reset line in the steps to come. -/
def holding (resets : List Bool) : State := (compressing 0 0).setHost [⟨false, some ⟨0x4000, resets⟩⟩]

/-! ### Well-formedness -/

theorem test_wellFormed_refuses_the_other_format :
    WellFormed .cmd .init = true ∧ WellFormed .seq .init = false ∧ WellFormed .seq (.absorb 0x61) = false ∧
      WellFormed .cmd .wload = false ∧ WellFormed .seq .wload = true ∧ WellFormed .cmd .padlen = false := by decide

/-- 30_encoding R101: an operand outside its range is an assembly error. -/
theorem test_line_ranges :
    Line.wellFormed (.absorb 255) = true ∧ Line.wellFormed (.absorb 256) = false ∧
      Line.wellFormed (.rdh 7) = true ∧ Line.wellFormed (.rdh 8) = false ∧
      Line.wellFormed (.rddig 31) = true ∧ Line.wellFormed (.rddig 32) = false ∧
      Line.wellFormed (.rdhex 63) = true ∧ Line.wellFormed (.rdhex 64) = false ∧
      Line.wellFormed (.word 0xffff) = true ∧ Line.wellFormed (.word 0x10000) = false ∧
      Line.wellFormed (.absorbw 0xffffffff) = true ∧ Line.wellFormed (.absorbw 0x100000000) = false := by decide

/-- 30_encoding R102: ABSORBW is big-endian. -/
theorem test_absorbw_big_endian :
    (assemble (.absorbw 0x61626380)).toOption =
      some [offer 0x2061, offer 0x2062, offer 0x2063, offer 0x2080] := by decide

/-- The host's encoding in the tests of the notation: ASCII only. -/
def ascii (t : List Char) : HostText :=
  if t.all fun c => c.toNat < 128 then some (t.map fun c => BitVec.ofNat 8 c.toNat) else none

/-- 30_encoding R101: a quoted character, a comment, a hexadecimal number, and a program (95_test_vectors 3.3). -/
theorem test_notation :
    (assembleText ascii
      [['R', 'E', 'S', 'E', 'T'], ['I', 'N', 'I', 'T', ' ', ';', ' ', 'x'], [],
        ['A', 'B', 'S', 'O', 'R', 'B', ' ', quoteMark, 'a', quoteMark], ['R', 'D', 'H', ' ', '7'],
        ['.', 'w', 'o', 'r', 'd', ' ', '0', 'x', 'f', '0', 'f', 'f'],
        ['A', 'B', 'S', 'O', 'R', 'B', 'S', ' ', doubleMark, 'b', ';', doubleMark]]).toOption =
      some [assertReset, offer 0x1000, offer 0x2061, offer 0x5007, offer 0xf0ff, offer 0x2062, offer 0x203b] := by
  decide +kernel

/-- 30_encoding R101: an operand out of range, a micro-operation and a text with no encoding are errors. -/
theorem test_notation_errors :
    (assembleText ascii [['R', 'D', 'H', ' ', '8']]).toOption = none ∧
      (assembleText ascii [['W', 'L', 'O', 'A', 'D']]).toOption = none ∧
      (assembleText ascii [['H', 'A', 'S', 'H', ' ', doubleMark, Char.ofNat 0xe9, doubleMark]]).toOption = none := by
  decide +kernel

/-! ### Decoding: words written out from the patterns of 30_encoding R95 and R96, bit 15 or bit 7 first -/

theorem test_decode_init : decodeTableWord 16 0b0001_0000_0000_0000 = some .init := by decide
theorem test_decode_absorb : decodeTableWord 16 0b0010_0000_1000_0001 = some (.absorb 0x81) := by decide
theorem test_decode_final : decodeTableWord 16 0b0011_0000_0000_0000 = some .final := by decide
theorem test_decode_rdstat : decodeTableWord 16 0b0100_0000_0000_0000 = some .rdstat := by decide
theorem test_decode_rdh : decodeTableWord 16 0b0101_0000_0000_0110 = some (.rdh 6) := by decide
theorem test_decode_rddig : decodeTableWord 16 0b0110_0000_0001_1000 = some (.rddig 24) := by decide
theorem test_decode_rdhex : decodeTableWord 16 0b0111_0000_0011_0001 = some (.rdhex 49) := by decide
theorem test_decode_wload : decodeTableWord 8 0b010_000_11 = some .wload := by decide
theorem test_decode_wext : decodeTableWord 8 0b010_001_10 = some .wext := by decide
theorem test_decode_vinit : decodeTableWord 8 0b010_010_01 = some .vinit := by decide
theorem test_decode_round : decodeTableWord 8 0b010_011_00 = some .round := by decide
theorem test_decode_hfold : decodeTableWord 8 0b010_100_11 = some .hfold := by decide
theorem test_decode_pad80 : decodeTableWord 8 0b011_111_00 = some .pad80 := by decide
theorem test_decode_pad00 : decodeTableWord 8 0b011_010_01 = some .pad00 := by decide
theorem test_decode_padlen : decodeTableWord 8 0b011_011_10 = some .padlen := by decide

/-- 95_test_vectors 2.1, the rows with "no". -/
theorem test_illegal_words :
    ([0x0000, 0x0061, 0x1001, 0x1100, 0x2100, 0x2f61, 0x3001, 0x4001, 0x5008, 0x5080, 0x6020, 0x7040, 0x7100,
      0x8000, 0xf0ff, 0xffff].all fun w => (decodeTableWord 16 w).isNone && !legal (BitVec.ofNat 16 w)) = true := by
  decide

/-- 95_test_vectors 2.1: selector words with no micro-operation. -/
theorem test_selectors_without_row :
    ([0x00, 0x20, 0x54, 0x5b, 0x5f, 0x63, 0x7f, 0x80, 0xa0, 0xc0, 0xff].all fun w =>
      (decodeTableWord 8 w).isNone) = true := by decide

/-- 95_test_vectors 2.1: the selector words named there. -/
theorem test_selectors_named :
    ([0x60, 0x64, 0x7c].all fun w => decodeTableWord 8 w == some .pad80) = true ∧
      ([0x62, 0x6e].all fun w => decodeTableWord 8 w == some .padlen) = true ∧
      ([0x50, 0x51, 0x52, 0x53].all fun w => decodeTableWord 8 w == some .hfold) = true := by decide

/-- One word a row of the opcode table, placed where the next step takes its instruction, runs from reset. -/
theorem test_placed_words_run :
    ([0x1000, 0x2000, 0x3000, 0x4000, 0x5000, 0x6000, 0x7000].all fun w =>
      after (step (State.reset.withFetchWord 16 w)) fun t => t.rsp.isSome) = true ∧
    ([0x40, 0x44, 0x48, 0x4c, 0x50, 0x60, 0x61, 0x62].all fun w =>
      after (step (State.reset.withFetchWord 8 w)) fun t => t.rsp.isNone) = true := by decide +kernel

/-! ### Tables and word functions -/

/-- 95_test_vectors 3.2: the sum and the XOR of all 64 round constants, and their number. -/
theorem test_round_constants :
    kTable.length = 64 ∧ kTable.foldl (· + ·) 0 = 0x941d1755 ∧ kTable.foldl (· ^^^ ·) 0 = 0x95c49cf5 ∧
      kAt 15 = 0xc19bf174 ∧ kAt 63 = 0xc67178f2 := by decide +kernel

/-- 95_test_vectors 3.1. -/
theorem test_word_functions :
    rotr 0x12345678 7 = 0xf02468ac ∧ shr 0x80000000 3 = 0x10000000 ∧
      bsig0 0x6a09e667 = 0xce20b47e ∧ bsig1 0x510e527f = 0x3587272b ∧ ssig0 0x12345678 = 0xe7fce6ee ∧
      ssig1 0x12345678 = 0xa1f78649 ∧ ch 0xf0f0f0f0 0xff00ff00 0x0f0f0f0f = 0xff0fff0f ∧
      maj 0xffffffff 0x12345678 0x9abcdef0 = 0x9abcdef8 := by decide

/-- 95_test_vectors 1.1: S1, the digest of the empty message. -/
theorem test_known_vector_empty : digestValue (hashOf []) =
    0xe3b0c44298fc1c149afbf4c8996fb92427ae41e4649b934ca495991b7852b855 := by decide +kernel

/-- 95_test_vectors 1.1: S2, the digest of "abc". -/
theorem test_known_vector_abc : digestValue (hashOf [0x61, 0x62, 0x63]) =
    0xba7816bf8f01cfea414140de5dae2223b00361a396177a9cb410ff61f20015ad := by decide +kernel

/-- 95_test_vectors 3.6: the 56 bytes of 0x61, two blocks. -/
theorem test_two_block_digest : digestValue (hashOf (List.replicate 56 0x61)) =
    0xb35439a4ac6f0948b6d6f9e3c6af0f5f590ce20f1bde7090ef7970686ec6738a := by decide +kernel

/-- 95_test_vectors 2.3: the block of "abc". -/
theorem test_block_of_abc : blocks (pad [0x61, 0x62, 0x63]) = [abcBlock] := by decide +kernel

/-- 95_test_vectors 2.2: zero bytes, blocks and steps after FINAL for n = 3, 55, 56, 63, 120. -/
theorem test_padding_by_length :
    zeroCount 3 = 52 ∧ zeroCount 55 = 0 ∧ zeroCount 56 = 63 ∧ blockCount 55 = 1 ∧ blockCount 56 = 2 ∧
      blockCount 120 = 3 ∧ finalUops 3 = 176 ∧ finalUops 55 = 124 ∧ finalUops 56 = 302 ∧ finalUops 63 = 295 ∧
      hashUops 64 = 294 := by decide

/-! ### One step of each instruction -/

/-- 95_test_vectors 5: DONE, INIT gives 0x00000001 and H = IV. -/
theorem test_init_after_done :
    after (exec .init finished) (fun t => t.rsp == some 1 && t.hWord 0 == 0x6a09e667 && t.hWord 7 == 0x5be0cd19 &&
      t.phase == 1 && t.len == Reg.wrote 0) = true := by decide +kernel

/-- 95_test_vectors 2.4, first row. -/
theorem test_absorb_first_byte :
    after (exec (.absorb 0x61) (opened 0 0)) (fun t => t.rsp == some 0x00010001 && t.bByte 0 == 0x61 &&
      t.len == Reg.wrote 8) = true := by decide +kernel

/-- 95_test_vectors 2.4, third row: the byte that fills the block. -/
theorem test_absorb_fills_block :
    after (exec (.absorb 0x3f) (opened 63 504)) (fun t => t.rsp == some 0x00000002 && t.bByte 63 == 0x3f &&
      t.len == Reg.wrote 512 && t.stage == Reg.wrote 0 && t.t == Reg.wrote 0) = true := by decide +kernel

/-- 95_test_vectors 5: LEN = 2^64 - 8 raises LEN_OVERFLOW; FINAL is still accepted. -/
theorem test_final_at_last_length :
    after (exec (.absorb 0) (opened 63 0xfffffffffffffff8)) (fun t => t.rsp == some 0x003f0315 &&
      t.len == Reg.wrote 0xfffffffffffffff8) = true ∧
    after (exec .final (opened 63 0xfffffffffffffff8)) (fun t => t.rsp == some 0x003f0003) = true := by decide +kernel

/-- 95_test_vectors 2.4, fourth row. -/
theorem test_final_starts_padder :
    after (exec .final (opened 3 24)) (fun t => t.rsp == some 0x00030003 && t.fin == Reg.wrote 1 &&
      t.ps == Reg.wrote 0 && t.len == Reg.wrote 24) = true := by decide +kernel

/-- 95_test_vectors 5: RDSTAT after reset and in DONE. -/
theorem test_rdstat :
    after (exec .rdstat State.reset) (fun t => t.rsp == some 0) = true ∧
      after (exec .rdstat finished) (fun t => t.rsp == some 0xc) = true := by decide +kernel

/-- 95_test_vectors 4 and 5: RDH in DONE, and the fault in IDLE. -/
theorem test_rdh :
    after (exec (.rdh 7) finished) (fun t => t.rsp == some 0x80000001) = true ∧
      after (exec (.rdh 0) State.reset) (fun t => t.rsp == some 0x00000215) = true := by decide +kernel

/-- 95_test_vectors 4: RDDIG 16, 19 and 31. -/
theorem test_rddig :
    after (exec (.rddig 16) finished) (fun t => t.rsp == some 0x9a) = true ∧
      after (exec (.rddig 19) finished) (fun t => t.rsp == some 0xf0) = true ∧
      after (exec (.rddig 31) finished) (fun t => t.rsp == some 0x01) = true := by decide +kernel

/-- 95_test_vectors 4: RDHEX 32, 38, 39 and 63. -/
theorem test_rdhex :
    after (exec (.rdhex 32) finished) (fun t => t.rsp == some 0x39) = true ∧
      after (exec (.rdhex 38) finished) (fun t => t.rsp == some 0x66) = true ∧
      after (exec (.rdhex 39) finished) (fun t => t.rsp == some 0x30) = true ∧
      after (exec (.rdhex 63) finished) (fun t => t.rsp == some 0x31) = true := by decide +kernel

/-- 41_compressor R150, its example. -/
theorem test_wload_abc :
    after (exec .wload (compressing 0 0)) (fun t => t.wWord 0 == 0x61626380 && t.wWord 15 == 0x18 && t.wWord 14 == 0 &&
      t.stage == Reg.wrote 1 && t.t == Reg.wrote 16) = true := by decide +kernel

/-- 41_compressor R151, its example: `W[17]` of "abc". -/
theorem test_wext_abc :
    after (exec .wext ((compressing 1 17).writeSchedule 15 0x18)) (fun t => t.wWord 17 == 0x000f0000 &&
      t.t == Reg.wrote 18) = true := by decide +kernel

/-- 95_test_vectors 3.3: `W[63]` of "abc" from `W[47]`, `W[48]`, `W[56]` and `W[61]`; the stage is left. -/
theorem test_wext_last :
    after (exec .wext (((((compressing 1 63).writeSchedule 47 0x065c43da).writeSchedule 48 0xfb3e89cb).writeSchedule
      56 0xef57b9cd).writeSchedule 61 0x668b2ff8)) (fun t => t.wWord 63 == 0x12b1edeb && t.stage == Reg.wrote 2 &&
        t.t == Reg.wrote 0) = true := by decide +kernel

/-- 41_compressor R152, its example. -/
theorem test_vinit :
    after (exec .vinit (compressing 2 0)) (fun t => t.vWord 0 == 0x6a09e667 && t.vWord 7 == 0x5be0cd19 &&
      t.stage == Reg.wrote 3) = true := by decide +kernel

/-- 41_compressor R153, its example: round 0 of "abc". -/
theorem test_round_abc :
    after (exec .round ((compressing 3 0).writeSchedule 0 0x61626380)) (fun t => t.vWord 0 == 0x5d6aebcd &&
      t.vWord 1 == 0x6a09e667 && t.vWord 4 == 0xfa2a4622 && t.vWord 7 == 0x1f83d9ab && t.t == Reg.wrote 1) = true := by
  decide +kernel

/-- 41_compressor R154, its example: word 0 of "abc", the other word 0xffffffff + IV, and the way to DONE. -/
theorem test_hfold_abc :
    after (exec .hfold ((compressing 4 0).setV (Vector.replicate 8 (Reg.wrote 0x506e3058)))) (fun t =>
      t.hWord 0 == 0xba7816bf && t.phase == 4 && t.dv == 1 && t.stage == Reg.wrote 0) = true := by decide +kernel

/-- 95_test_vectors 2.5: PAD80 at FILL 55 and at FILL 63. -/
theorem test_pad80 :
    after (exec .pad80 (padding 0 0 55 440)) (fun t => t.bByte 55 == 0x80 && t.fill == 56 &&
      t.ps == Reg.wrote 2) = true ∧
    after (exec .pad80 (padding 0 0 63 504)) (fun t => t.bByte 63 == 0x80 && t.fill == 0 && t.ps == Reg.wrote 1 &&
      t.phase == 2) = true := by decide +kernel

/-- 95_test_vectors 2.5: PAD00 at FILL 55. -/
theorem test_pad00 :
    after (exec .pad00 ((padding 1 0 55 24).writeByte 55 0xff)) (fun t => t.bByte 55 == 0x00 && t.fill == 56 &&
      t.ps == Reg.wrote 2 && t.phase == 3) = true := by decide +kernel

/-- 95_test_vectors 2.5: PADLEN 6 and PADLEN 7 with LEN = 0x1c0. -/
theorem test_padlen :
    after (exec .padlen (padding 2 6 62 0x1c0)) (fun t => t.bByte 62 == 0x01 && t.fill == 63 &&
      t.lk == Reg.wrote 7) = true ∧
    after (exec .padlen (padding 2 7 63 0x1c0)) (fun t => t.bByte 63 == 0xc0 && t.fill == 0 && t.ps == Reg.wrote 3 &&
      t.lk == Reg.wrote 7 && t.phase == 2) = true := by decide +kernel

/-- 95_test_vectors 5: illegal words, priority, and phase FAULT. -/
theorem test_port_faults :
    after (step (offering 0x6020 State.reset)) (fun t => t.rsp == some 0x00000115) = true ∧
      after (step (offering 0x2100 (opened 63 0xfffffffffffffff8))) (fun t => t.rsp == some 0x003f0115) = true ∧
      after (step (offering 0xffff (faulted 2 0))) (fun t => t.rsp == some 0x00000215) = true ∧
      after (step ((faulted 2 0).setHost [assertReset])) (fun t => t.status == 0 && t.rsp == none) = true := by
  decide +kernel

/-- 70_reset R244, R240: a held RDSTAT gets no response; reset asserted in the second step of the hold ends it, and the
command is answered after that, in IDLE. -/
theorem test_reset_lifts_a_hold :
    after (step (holding [true])) (fun t => t.rsp == none && t.phase == 2 &&
      t.host == [⟨true, some ⟨0x4000, []⟩⟩] &&
      after (step t) fun u => u.rsp == none && u.phase == 0 &&
        after (step u) fun v => v.rsp == some 0 && v.host == []) = true := by decide +kernel

/-- 44_entry_point R192, R193: in FAULT digestHex offers nothing, a text with no encoding is InvalidEncoding. -/
theorem test_digestHex_requires :
    (digestHexInputs (some [0x61]) (faulted 2 0)).toOption = none ∧
      (match digestHexInputs none (faulted 2 0) with
        | .error e => e == .invalidEncoding
        | .ok _ => false) = true ∧
      hexOfResponses 1 (List.replicate 3 1 ++ List.replicate 64 0x00000161) = List.replicate 64 0x61 := by decide +kernel

/-! ### Witnesses: for every obligation with hypotheses, a state and operands that meet them all -/

theorem witness_inv_opened : CoreInv (opened 3 24) := by constructor <;> decide +kernel
theorem witness_inv_full : CoreInv (opened 63 504) := by constructor <;> decide +kernel
theorem witness_inv_finished : CoreInv finished := by constructor <;> decide +kernel
theorem witness_inv_faulted : CoreInv (faulted 2 0) := by constructor <;> decide +kernel
theorem witness_inv_padding : CoreInv (padding 2 0 56 24) := by constructor <;> decide +kernel
theorem witness_inv_compressing : CoreInv (compressing 1 16) := by constructor <;> decide +kernel

/-- ResetWinsOverEverything: reset with a command and without, and the way out of FAULT. -/
theorem witness_ResetWinsOverEverything :
    (∃ (s : State) (o : Option Offer) (rest : List HostInput), s.host = ⟨true, o⟩ :: rest ∧ s.phase = Phase.compress) ∧
    ∃ s t : State, s.phase = Phase.fault ∧ step s = .next t ∧ t.phase ≠ Phase.fault := by
  refine ⟨⟨(compressing 3 63).setHost [⟨true, some ⟨0x4000, []⟩⟩], some ⟨0x4000, []⟩, [], rfl, rfl⟩, ?_⟩
  obtain ⟨t, h, hp⟩ := next_of_after (o := step ((faulted 2 0).setHost [assertReset]))
    (p := fun t => t.phase != Phase.fault) (by decide +kernel)
  exact ⟨(faulted 2 0).setHost [assertReset], t, rfl, h, by simpa using hp⟩

/-- CommandOfferedWithResetStaysOffered: reset asserted once, and reset asserted again in the next step. -/
theorem witness_CommandOfferedWithResetStaysOffered :
    (∃ (s : State) (c : CmdWord) (rest : List HostInput), s.host = ⟨true, some ⟨c, []⟩⟩ :: rest) ∧
      ∃ (s : State) (c : CmdWord) (rest : List HostInput), s.host = ⟨true, some ⟨c, [true]⟩⟩ :: rest :=
  ⟨⟨zeros.setHost [⟨true, some ⟨0x1000, []⟩⟩], 0x1000, [], rfl⟩,
    zeros.setHost [⟨true, some ⟨0x1000, [true]⟩⟩], 0x1000, [], rfl⟩

theorem witness_StepRunsOfferedCommand :
    ∃ (s : State) (c : CmdWord) (rest : List HostInput) (i : Instr), Offers s c rest ∧ Decodes s.phase ∧
      decodeCmd c = .ok i :=
  ⟨offering 0x703f finished, 0x703f, [], .rdhex 63, ⟨[], rfl⟩, .inr (.inr rfl), rfl⟩

theorem witness_StepRunsSelectedMicroOperation :
    ∃ (s : State) (i : Instr), seqBusy s.phase = true ∧ NoResetNow s ∧ decodeSel s.sw = .ok i :=
  ⟨offering 0x4000 (compressing 4 0), .hfold, rfl, trivial, rfl⟩

theorem witness_IllegalWordRaisesIllegalCmd :
    ∃ (s : State) (c : CmdWord) (rest : List HostInput), Offers s c rest ∧ Decodes s.phase ∧ legal c = false :=
  ⟨offering 0x7040 finished, 0x7040, [], ⟨[], rfl⟩, .inr (.inr rfl), rfl⟩

theorem witness_FaultPhaseAnswersEveryWord :
    ∃ (s : State) (c : CmdWord) (rest : List HostInput), Offers s c rest ∧ s.phase = Phase.fault :=
  ⟨offering 0x1000 (faulted 3 63), 0x1000, [], ⟨[], rfl⟩, rfl⟩

/-- BusyPortHoldsCommand: a hold without reset, and one that reset ends in the step after. -/
theorem witness_BusyPortHoldsCommand :
    (∃ (s : State) (c : CmdWord) (rest : List HostInput), s.host = ⟨false, some ⟨c, []⟩⟩ :: rest ∧
      seqBusy s.phase = true ∧ (∃ t, step (s.setHost []) = .next t) ∧ ∃ t, step s = .next t) ∧
    ∃ (s : State) (c : CmdWord) (resets : List Bool) (rest : List HostInput) (later : List Bool) (t : State),
      s.host = ⟨false, some ⟨c, resets⟩⟩ :: rest ∧ seqBusy s.phase = true ∧ resets = true :: later ∧
        step s = .next t := by
  refine ⟨⟨offering 0x4000 (compressing 0 0), 0x4000, [], rfl, rfl, ?_, ?_⟩, ?_⟩
  · obtain ⟨t, h, _⟩ := next_of_after (o := step ((offering 0x4000 (compressing 0 0)).setHost []))
      (p := fun _ => true) (by decide +kernel)
    exact ⟨t, h⟩
  · obtain ⟨t, h, _⟩ := next_of_after (o := step (offering 0x4000 (compressing 0 0)))
      (p := fun _ => true) (by decide +kernel)
    exact ⟨t, h⟩
  · obtain ⟨t, h, _⟩ := next_of_after (o := step (holding [true])) (p := fun _ => true) (by decide +kernel)
    exact ⟨holding [true], 0x4000, [true], [], [], t, rfl, rfl, rfl, h⟩

/-- NothingMovesUnlessHostActs: nothing offered any more, and nothing offered now. -/
theorem witness_NothingMovesUnlessHostActs :
    (∃ s : State, cmdReady s.phase = true ∧ s.host = []) ∧
      ∃ (s : State) (rest : List HostInput), cmdReady s.phase = true ∧ s.host = ⟨false, none⟩ :: rest :=
  ⟨⟨opened 63 504, rfl, rfl⟩, finished.setHost [⟨false, none⟩, offer 0x4000], [offer 0x4000], rfl, rfl⟩

/-- UnmatchedSelectorIsStuck: COMPRESS with STAGE 5 and 7, PAD with PS 3, PHASE 6 and 7. -/
theorem witness_UnmatchedSelectorIsStuck :
    (NoResetNow (compressing 5 0) ∧ seqBusy (compressing 5 0).phase = true ∧ 5 ≤ (compressing 5 0).stage.val) ∧
    (NoResetNow (compressing 7 0) ∧ seqBusy (compressing 7 0).phase = true ∧ 5 ≤ (compressing 7 0).stage.val) ∧
    (NoResetNow (padding 3 0 0 0) ∧ seqBusy (padding 3 0 0 0).phase = true ∧
      (padding 3 0 0 0).ps.val = PadStage.ended) ∧
    (NoResetNow (zeros.setPhase 6) ∧ 6 ≤ (zeros.setPhase 6).phase) ∧
    (NoResetNow (zeros.setPhase 7) ∧ 6 ≤ (zeros.setPhase 7).phase) :=
  ⟨⟨trivial, rfl, by decide⟩, ⟨trivial, rfl, by decide⟩, ⟨trivial, rfl, rfl⟩, ⟨trivial, by decide⟩, ⟨trivial, by decide⟩⟩

theorem witness_CopiesShareNothing :
    ∃ (sys : Cores 2) (k : Fin 2) (t : State), step sys[k] = .next t := by
  obtain ⟨t, h, _⟩ := next_of_after (o := step (offering 0x1000 State.reset)) (p := fun _ => true) (by decide +kernel)
  exact ⟨#v[offering 0x1000 State.reset, finished], 0, t, h⟩

/-- InitBeginsNewHash: each of the three phases. -/
theorem witness_InitBeginsNewHash :
    Decodes State.reset.phase ∧ Decodes (opened 3 24).phase ∧ Decodes finished.phase ∧ finished.fcode = 0 :=
  ⟨.inl rfl, .inr (.inl rfl), .inr (.inr rfl), rfl⟩

/-- AbsorbAppendsByte: with room, and at the last index of the block. -/
theorem witness_AbsorbAppendsByte :
    ((opened 62 0xfffffffffffffff0).phase = Phase.absorb ∧ (opened 62 0xfffffffffffffff0).len.val ≠ 0xfffffffffffffff8) ∧
    ((opened 63 504).phase = Phase.absorb ∧ (opened 63 504).len.val ≠ 0xfffffffffffffff8 ∧ (opened 63 504).fill = 63) :=
  ⟨⟨rfl, by decide⟩, ⟨rfl, by decide, rfl⟩⟩

theorem witness_AbsorbRaisesLenOverflow :
    (opened 63 0xfffffffffffffff8).phase = Phase.absorb ∧ (opened 63 0xfffffffffffffff8).len.val = 0xfffffffffffffff8 :=
  ⟨rfl, rfl⟩

theorem witness_FinalStartsPadder : (opened 0 0).phase = Phase.absorb := rfl

theorem witness_RdstatAnswersStatus :
    cmdReady State.reset.phase = true ∧ cmdReady (opened 0 0).phase = true ∧ cmdReady finished.phase = true ∧
      cmdReady (faulted 1 0).phase = true := ⟨rfl, rfl, rfl, rfl⟩

/-- RdstatWordsByPhase: a state that meets the invariant in ABSORB, in DONE and in FAULT (for IDLE: State.reset). -/
theorem witness_RdstatWordsByPhase :
    (CoreInv (opened 63 504) ∧ (opened 63 504).phase = Phase.absorb) ∧ (CoreInv finished ∧ finished.phase = Phase.done) ∧
      (CoreInv (faulted 2 0) ∧ (faulted 2 0).phase = Phase.fault) ∧
      (State.reset.phase = Phase.idle ∧ cmdReady State.reset.phase = true) :=
  ⟨⟨witness_inv_full, rfl⟩, ⟨witness_inv_finished, rfl⟩, ⟨witness_inv_faulted, rfl⟩, rfl, rfl⟩

theorem witness_RdhAnswersStateWord : (opened 0 0).phase = Phase.absorb ∧ finished.phase = Phase.done := ⟨rfl, rfl⟩

theorem witness_RddigAnswersDigestByte : finished.phase = Phase.done := rfl

theorem witness_RdhexAnswersCharacter : finished.phase = Phase.done := rfl

/-- WrongPhaseRaisesBadPhase: both clauses. -/
theorem witness_WrongPhaseRaisesBadPhase :
    (Instr.format (.rddig 31) = .cmd ∧ Decodes (opened 1 8).phase ∧ admits (.rddig 31) (opened 1 8).phase = false) ∧
    (Instr.format (.rdh 0) = .cmd ∧ Decodes (opened 1 8).phase ∧ admits (.rdh 0) (opened 1 8).phase = true) :=
  ⟨⟨rfl, .inr (.inl rfl), rfl⟩, ⟨rfl, .inr (.inl rfl), rfl⟩⟩

/-- FaultPriority: each of the four clauses. -/
theorem witness_FaultPriority :
    (Offers (offering 0x2100 finished) 0x2100 [] ∧ Decodes finished.phase ∧ legal 0x2100 = false) ∧
    (Offers (offering 0x2000 finished) 0x2000 [] ∧ decodeCmd 0x2000 = .ok (.absorb 0) ∧
      admits (.absorb 0) finished.phase = false) ∧
    (Offers (offering 0x2000 (opened 63 0xfffffffffffffff8)) 0x2000 [] ∧ decodeCmd 0x2000 = .ok (.absorb 0) ∧
      (opened 63 0xfffffffffffffff8).phase = Phase.absorb ∧
      (opened 63 0xfffffffffffffff8).len.val = 0xfffffffffffffff8) ∧
    (Offers (offering 0x2000 (opened 62 0xfffffffffffffff0)) 0x2000 [] ∧
      admits (.absorb 0) (opened 62 0xfffffffffffffff0).phase = true ∧
      ∀ b, Instr.absorb 0 = .absorb b → (opened 62 0xfffffffffffffff0).len.val ≠ 0xfffffffffffffff8) :=
  ⟨⟨⟨[], rfl⟩, .inr (.inr rfl), rfl⟩, ⟨⟨[], rfl⟩, rfl, rfl⟩, ⟨⟨[], rfl⟩, rfl, rfl, rfl⟩,
    ⟨[], rfl⟩, rfl, fun _ _ => by decide⟩

/-- FaultEntryResponse: a command that faults. -/
theorem witness_FaultEntryResponse :
    ∃ (i : Instr) (s t : State), i.format = .cmd ∧ Decodes s.phase ∧ exec i s = .next t ∧ t.phase = Phase.fault := by
  obtain ⟨t, h, hp⟩ := next_of_after (o := exec (.absorb 0) (opened 63 0xfffffffffffffff8))
    (p := fun t => t.phase == Phase.fault) (by decide +kernel)
  exact ⟨.absorb 0, opened 63 0xfffffffffffffff8, t, rfl, .inr (.inl rfl), h, by simpa using hp⟩

theorem witness_ReadsHaveNoSideEffects :
    (reads (.rdhex 0) = true ∧ Decodes finished.phase ∧ admits (.rdhex 0) finished.phase = true) ∧
      (reads (.rdh 7) = true ∧ Decodes State.reset.phase ∧ admits (.rdh 7) State.reset.phase = false) :=
  ⟨⟨rfl, .inr (.inr rfl), rfl⟩, ⟨rfl, .inl rfl, rfl⟩⟩

/-- The selection clauses of the eight micro-operations' statements. -/
theorem witness_micro_operations_selected :
    ((padding 0 0 3 24).phase = Phase.pad ∧ (padding 0 0 3 24).ps.val = PadStage.mark) ∧
    ((padding 1 0 63 24).phase = Phase.pad ∧ (padding 1 0 63 24).ps.val = PadStage.zero) ∧
    ((padding 2 7 63 24).phase = Phase.pad ∧ (padding 2 7 63 24).ps.val = PadStage.length) ∧
    (∀ k : BitVec 3, (compressing k 0).phase = Phase.compress ∧ (compressing k 0).stage.val = k) :=
  ⟨⟨rfl, rfl⟩, ⟨rfl, rfl⟩, ⟨rfl, rfl⟩, fun _ => ⟨rfl, rfl⟩⟩

/-- WextDerivesScheduleWord: the first and the last operand. -/
theorem witness_WextDerivesScheduleWord :
    16 ≤ (compressing 1 16).t.val ∧ 16 ≤ (compressing 1 63).t.val ∧ (compressing 1 63).t.val = 63 := by decide +kernel

theorem witness_WextStopsBelowItsRange : (compressing 1 15).t.val < 16 ∧
    stops (exec .wext (compressing 1 15)) (.scheduleIndex 15) = true := by decide +kernel

/-- HfoldAddsBackAndLeaves: each of the three ways on. -/
theorem witness_HfoldAddsBackAndLeaves :
    ((compressing 4 0).setFin 0).fin.val = 0 ∧
    ((compressing 4 0).fin.val = 1 ∧ (compressing 4 0).ps.val = 3) ∧
    (((compressing 4 0).setPs 1).fin.val = 1 ∧ ((compressing 4 0).setPs 1).ps.val ≠ 3) := by decide +kernel

/-- WordFunctionsBitByBit: the ends of both ranges. -/
theorem witness_WordFunctionsBitByBit : (0 < 1 ∧ 1 < 32 ∧ 0 < 32) ∧ 0 < 31 ∧ 31 < 32 := by decide

/-- PaddedLength: the ends of the range of `z`, a message in scope, and a zero byte and a length byte of its padding. -/
theorem witness_PaddedLength :
    (0 + 1 + 55) % 64 = 56 ∧ (55 + 1 + 0) % 64 = 56 ∧ ([] : List Byte).length ≤ Config.maxMsgBytes ∧ 54 < zeroCount 0 ∧
      7 < 8 :=
  ⟨rfl, rfl, Nat.zero_le _, by decide, by decide⟩

/-- ConstantTables: the ends of both ranges. -/
theorem witness_ConstantTables : 63 < 64 ∧ 7 < 8 := by decide

theorem witness_EncodeInvertsDecodeCmd : decodeCmd 0x20ff = .ok (.absorb 0xff) := rfl

/-- LegalIsDecodable: opcode 0, opcode 8 and up, and a non-zero `z`. -/
theorem witness_LegalIsDecodable :
    BitVec.extractLsb' 12 4 (0x0061 : CmdWord) = 0 ∧ 8 ≤ BitVec.extractLsb' 12 4 (0x8000 : CmdWord) ∧
      BitVec.extractLsb' 8 4 (0x2f61 : CmdWord) ≠ 0 := by decide

theorem witness_AssembledWordsDecode : 256 ≤ 256 ∧ 8 ≤ 8 ∧ 32 ≤ 32 ∧ 64 ≤ 64 ∧ 2 ^ 16 ≤ 65536 := by decide

theorem witness_PseudoInstructionsExpand :
    0xffffffff < 2 ^ 32 ∧ 2 ^ 32 ≤ 0x100000000 ∧ ([] : List Byte).length ≤ Config.maxMsgBytes :=
  ⟨by norm_num, by norm_num, Nat.zero_le _⟩

/-- StepKeepsInv: a step of the sequencer, and an accepted word. -/
theorem witness_StepKeepsInv :
    (∃ s t : State, CoreInv s ∧ step s = .next t) ∧
      ∃ s t : State, CoreInv s ∧ (∃ c l, Offers s c l) ∧ step s = .next t := by
  constructor
  · obtain ⟨t, h, _⟩ := next_of_after (o := step (compressing 1 16)) (p := fun _ => true) (by decide +kernel)
    exact ⟨compressing 1 16, t, witness_inv_compressing, h⟩
  · obtain ⟨t, h, _⟩ := next_of_after (o := step (offering 0x203f (opened 63 504))) (p := fun _ => true)
      (by decide +kernel)
    exact ⟨offering 0x203f (opened 63 504), t, by constructor <;> decide +kernel, ⟨0x203f, [], [], rfl⟩, h⟩

theorem witness_InvStepGoesOn : ∃ s : State, CoreInv s := ⟨_, witness_inv_padding⟩

/-- After reset and INIT, with V, W and B still NOVALUE: two states that differ in the bits of one such register. -/
def untouched (x : BitVec 32) : State :=
  { opened 0 0 with
    v := Vector.replicate 8 ⟨x, false⟩, w := Vector.replicate 64 ⟨x, false⟩, b := Vector.replicate 64 Reg.noValue }

theorem witness_NoValueIsNeverRead :
    ∃ s t s' : State, s ≠ t ∧ CoreInv s ∧ Agree s t ∧ step s = .next s' := by
  obtain ⟨u, h, _⟩ := next_of_after (o := step (untouched 0)) (p := fun _ => true) (by decide +kernel)
  refine ⟨untouched 0, untouched 1, u, by decide +kernel, by constructor <;> decide +kernel, ?_, h⟩
  constructor <;> first | rfl | (unfold Reg.Agree; decide +kernel)

/-- InstructionsWriteOnlyTheirRegisters: a command and a micro-operation. -/
theorem witness_InstructionsWriteOnlyTheirRegisters :
    ((Instr.format .final = .seq → decodeSel (opened 3 24).sw = .ok .final) ∧ ∃ t, exec .final (opened 3 24) = .next t) ∧
    ((Instr.format .padlen = .seq → decodeSel (padding 2 7 63 24).sw = .ok .padlen) ∧
      ∃ t, exec .padlen (padding 2 7 63 24) = .next t) := by
  constructor
  · obtain ⟨t, h, _⟩ := next_of_after (o := exec .final (opened 3 24)) (p := fun _ => true) (by decide +kernel)
    exact ⟨fun h => (by cases h), t, h⟩
  · obtain ⟨t, h, _⟩ := next_of_after (o := exec .padlen (padding 2 7 63 24)) (p := fun _ => true) (by decide +kernel)
    exact ⟨fun _ => rfl, t, h⟩

theorem witness_FaultIsSticky :
    ∃ s t : State, NoResetNow s ∧ s.phase = Phase.fault ∧ step s = .next t := by
  obtain ⟨t, h, _⟩ := next_of_after (o := step (offering 0x1000 (faulted 2 0))) (p := fun _ => true) (by decide +kernel)
  exact ⟨offering 0x1000 (faulted 2 0), t, trivial, rfl, h⟩

/-- FlagsRiseOnlyWhereStated: DV up by HFOLD, DV down by INIT, FLT up by an illegal word, FLT down by reset. -/
theorem witness_FlagsRiseOnlyWhereStated :
    ((compressing 4 0).dv = 0 ∧ after (step (compressing 4 0)) (fun t => t.dv == 1) = true) ∧
    ((offering 0x1000 finished).dv = 1 ∧ after (step (offering 0x1000 finished)) (fun t => t.dv == 0) = true) ∧
    ((offering 0 finished).flt = 0 ∧ after (step (offering 0 finished)) (fun t => t.flt == 1) = true) ∧
    (((faulted 2 0).setHost [assertReset]).flt = 1 ∧
      after (step ((faulted 2 0).setHost [assertReset])) (fun t => t.flt == 0) = true) := by decide +kernel

/-- PhaseTransitionTable: the hypotheses of its clauses, in order. -/
theorem witness_PhaseTransitionTable :
    (after (exec (.rdh 0) State.reset) (fun _ => true) = true ∧ Decodes State.reset.phase ∧
      admits (.rdh 0) State.reset.phase = false) ∧
    (after (exec .init (opened 3 24)) (fun _ => true) = true ∧ Decodes (opened 3 24).phase) ∧
    (after (exec .rdstat finished) (fun _ => true) = true ∧ Decodes finished.phase) ∧
    (after (exec (.absorb 1) (opened 63 504)) (fun _ => true) = true ∧ (opened 63 504).phase = Phase.absorb) ∧
    (after (exec .final (opened 63 504)) (fun _ => true) = true) ∧
    (after (exec (.rdhex 63) finished) (fun _ => true) = true ∧ admits (.rdhex 63) finished.phase = true) ∧
    (after (exec .init (faulted 1 0)) (fun _ => true) = true ∧ (faulted 1 0).phase = Phase.fault) ∧
    (after (exec .wext (compressing 1 63)) (fun _ => true) = true ∧ decodeSel (compressing 1 63).sw = .ok .wext) ∧
    after (exec .hfold (compressing 4 0)) (fun _ => true) = true ∧
    (after (exec .pad00 (padding 1 0 63 0)) (fun _ => true) = true ∧ decodeSel (padding 1 0 63 0).sw = .ok .pad00) ∧
    after (step (zeros.setHost [assertReset])) (fun _ => true) = true ∧
    (after (step (offering 0x8000 finished)) (fun _ => true) = true ∧ legal 0x8000 = false) ∧
    after (step (offering 0x4000 (faulted 1 0))) (fun _ => true) = true ∧
    (after (step (offering 0x4000 (compressing 0 0))) (fun _ => true) = true ∧
      seqBusy (compressing 0 0).phase = true) := by unfold Decodes; decide +kernel

theorem witness_BlockIsCompressedIn115Steps :
    (compressing 0 0).phase = Phase.compress ∧ (compressing 0 0).stage.val = Stage.wload ∧ HostWaits (compressing 0 0) :=
  ⟨rfl, rfl, .inl rfl⟩

/-- FinalReachesDoneInStatedSteps: the least and the most, with a held command and without, and the ABSORB that fills. -/
theorem witness_FinalReachesDoneInStatedSteps :
    ((padding 0 0 55 440).phase = Phase.pad ∧ (padding 0 0 55 440).fin.val = 1 ∧
      (padding 0 0 55 440).ps.val = PadStage.mark ∧ (padding 0 0 55 440).lk.val = 0 ∧ HostWaits (padding 0 0 55 440)) ∧
    HostWaits (offering 0x7000 (padding 0 0 56 448)) ∧
    ((opened 63 504).phase = Phase.absorb ∧ (opened 63 504).fill = 63 ∧ (opened 63 504).fin.val = 0 ∧
      (opened 63 504).len.val ≠ 0xfffffffffffffff8 ∧ HostWaits (opened 63 504) ∧
      ∃ t, exec (.absorb 0x3f) (opened 63 504) = .next t) := by
  refine ⟨⟨rfl, rfl, rfl, rfl, .inl rfl⟩, .inr ⟨0x7000, [], rfl⟩, rfl, rfl, rfl, by decide, .inl rfl, ?_⟩
  obtain ⟨t, h, _⟩ := next_of_after (o := exec (.absorb 0x3f) (opened 63 504)) (p := fun _ => true) (by decide +kernel)
  exact ⟨t, h⟩

theorem witness_HoldAlwaysEnds :
    CoreInv (padding 2 0 56 24) ∧ seqBusy (padding 2 0 56 24).phase = true ∧ HostWaits (padding 2 0 56 24) :=
  ⟨witness_inv_padding, rfl, .inl rfl⟩

theorem witness_short_message : 3 ≤ Config.maxMsgBytes := by
  unfold Config.maxMsgBytes
  omega

theorem witness_HashOfEveryMessage :
    ∃ (m : List Byte) (s : State) (rest : List HostInput), m.length ≤ Config.maxMsgBytes ∧ Decodes s.phase ∧
      s.host = hashInputs m ++ rest ∧ rest = [offer 0x7000] :=
  ⟨[0x61, 0x62, 0x63], finished.setHost (hashInputs [0x61, 0x62, 0x63] ++ [offer 0x7000]), [offer 0x7000],
    witness_short_message, .inr (.inr rfl), rfl, rfl⟩

/-- DigestHexAnswersHexString: the hypotheses of its clauses: the commands and the responses; a run from ABSORB and one from
PAD, where INIT is held; a CORE in FAULT; a message that is too long. -/
theorem witness_DigestHexAnswersHexString :
    (∃ (m : List Byte) (s : State) (ins : List HostInput), m.length ≤ Config.maxMsgBytes ∧ s.phase ≠ Phase.fault ∧
      digestHexInputs (some m) s = .ok ins ∧ Decodes s.phase ∧ s.host = ins) ∧
    Decodes (opened 3 24).phase ∧ (CoreInv (padding 2 0 56 24) ∧ seqBusy (padding 2 0 56 24).phase = true) ∧
    (faulted 2 0).phase = Phase.fault ∧
    ∃ (m : List Byte) (s : State), s.phase ≠ Phase.fault ∧ Config.maxMsgBytes < m.length := by
  refine ⟨⟨[0x61], State.reset.setHost (hashInputs [0x61] ++ readHex), hashInputs [0x61] ++ readHex, ?_, by decide, ?_,
    .inl rfl, rfl⟩, .inr (.inl rfl), ⟨witness_inv_padding, rfl⟩, rfl,
    List.replicate (Config.maxMsgBytes + 1) 0, State.reset, by decide, by rw [List.length_replicate]; omega⟩
  · unfold Config.maxMsgBytes; simp
  · rw [digestHexInputs, if_neg (by decide), hashCommands, if_pos (by unfold Config.maxMsgBytes; simp)]

end Sys2Proof.Tests
end

section
/-! PROOFS, progress (00_scope R14, 41_compressor R158): in a state that meets the invariant every step goes on. What can stop
a step is one of three things: PHASE 6 or 7, a selector word that no row matches, and WEXT with `T` below 16. The invariant
shuts each of them out (10_state R45 items 1 and 5). -/

namespace Sys2Proof.Machine

/-! ### Which phases accept a word and which keep the sequencer busy -/

theorem decodes_or_fault_of_cmdReady {p : BitVec 3} (h : cmdReady p = true) : Decodes p ∨ p = Phase.fault := by
  unfold Decodes; revert p; decide

theorem seqBusy_eq_false_of_cmdReady {p : BitVec 3} (h : cmdReady p = true) : seqBusy p = false := by
  revert p; decide

/-- In each of the phases 0 to 5 somebody can move (10_state R27). -/
theorem cmdReady_or_seqBusy_of_le {p : BitVec 3} (h : p ≤ 5) : cmdReady p = true ∨ seqBusy p = true := by
  revert p; decide

theorem compress_or_pad_of_seqBusy {p : BitVec 3} (h : seqBusy p = true) : p = Phase.compress ∨ p = Phase.pad := by
  simpa [seqBusy] using h

/-! ### What a step is, by what the host does now -/

theorem not_noResetNow_iff {s : State} : ¬ NoResetNow s ↔ ∃ o rest, s.host = ⟨true, o⟩ :: rest := by
  unfold NoResetNow
  split
  · rename_i o rest hh
    exact ⟨fun _ => ⟨o, rest, hh⟩, fun _ => not_false⟩
  · rename_i hno
    exact ⟨fun h => absurd trivial h, fun ⟨o, rest, hh⟩ => absurd hh (hno o rest)⟩

theorem step_of_reset {s : State} {o : Option Offer} {rest : List HostInput} (h : s.host = ⟨true, o⟩ :: rest) :
    step s = .next (s.setHost (passed s.host)).resetEvent := by
  simp only [step, portStep, h]

theorem step_of_accepted {s : State} {c : CmdWord} {rest : List HostInput} (h : Offers s c rest)
    (hr : cmdReady s.phase = true) : step s = acceptStep c (s.setHost rest) := by
  obtain ⟨resets, hh⟩ := h
  simp only [step, portStep, hh, hr, if_true]

/-- Without reset, and unless a word is offered in a phase that accepts one, the port accepts nothing. -/
theorem step_of_quiet {s : State} (hn : NoResetNow s)
    (ho : ¬ (cmdReady s.phase = true ∧ ∃ c rest, Offers s c rest)) :
    step s = quietStep (s.setHost (passed s.host)) := by
  unfold step portStep
  split
  · rename_i hh
    rw [hh, passed_nil, ← hh, State.setHost_host_self]
  · rename_i o rest hh
    exact absurd hn (not_noResetNow_iff.2 ⟨o, rest, hh⟩)
  · rfl
  · rename_i o rest hh
    exact if_neg fun hr => ho ⟨hr, o.word, rest, o.resets, hh⟩

theorem quietStep_busy {s : State} {i : Instr} (hb : seqBusy s.phase = true) (hd : decodeSel s.sw = .ok i) :
    quietStep s = exec i s := by
  rw [quietStep, if_pos hb, seqStep, hd]

theorem quietStep_ready {s : State} (hr : cmdReady s.phase = true) : quietStep s = .next s.silent := by
  rw [quietStep, seqBusy_eq_false_of_cmdReady hr, hr]
  rfl

/-! ### An accepted word always has a next state -/

theorem command_goesOn {adm : BitVec 3 → Bool} {body : State → State} {s : State} (hr : cmdReady s.phase = true) :
    ∃ t, command adm body s = .next t := by
  rcases decodes_or_fault_of_cmdReady hr with hd | hf
  · cases ha : adm s.phase
    · exact ⟨_, command_wrongPhase hd ha⟩
    · exact ⟨_, command_admitted hd ha⟩
  · exact ⟨_, command_fault hf⟩

/-- Every command is a phase check followed by its own effect. -/
theorem exec_goesOn_of_cmd {i : Instr} (hi : i.format = .cmd) {s : State} (hr : cmdReady s.phase = true) :
    ∃ t, exec i s = .next t := by
  cases i with
  | init | absorb | final | rdstat | rdh | rddig | rdhex =>
    simp only [exec, execInit, execAbsorb, execFinal, execRdstat, execRdh, execRddig, execRdhex]
    exact command_goesOn hr
  | wload | wext | vinit | round | hfold | pad80 | pad00 | padlen => cases hi

theorem acceptStep_goesOn (c : CmdWord) {s : State} (hr : cmdReady s.phase = true) :
    ∃ t, acceptStep c s = .next t := by
  unfold acceptStep
  split
  · exact ⟨_, rfl⟩
  · split
    · rename_i i hd
      exact exec_goesOn_of_cmd (decodeCmd_format hd) hr
    · exact ⟨_, rfl⟩

/-! ### A micro-operation has a next state, but for WEXT below its operand range -/

theorem exec_goesOn_of_seq {i : Instr} (hi : i.format = .seq) {s : State} (hT : i = .wext → 16 ≤ s.t.val) :
    ∃ t, exec i s = .next t := by
  cases i with
  | init | absorb | final | rdstat | rdh | rddig | rdhex => cases hi
  | wext =>
    by_cases h63 : s.t.val = 63
    · exact ⟨_, exec_wext_last h63⟩
    · exact ⟨_, exec_wext_more (hT rfl) h63⟩
  | round =>
    by_cases h63 : s.t.val = 63
    · exact ⟨_, exec_round_last h63⟩
    · exact ⟨_, exec_round_more h63⟩
  | padlen =>
    by_cases h7 : s.lk.val = 7
    · exact ⟨_, exec_padlen_last h7⟩
    · exact ⟨_, exec_padlen_more h7⟩
  | wload => exact ⟨_, exec_wload s⟩
  | vinit => exact ⟨_, exec_vinit s⟩
  | hfold => exact ⟨_, exec_hfold s⟩
  | pad80 => exact ⟨_, exec_pad80 s⟩
  | pad00 => exact ⟨_, exec_pad00 s⟩

/-! ### What the invariant says about the next mover -/

/-- The invariant speaks of registers only, not of what the host does. -/
theorem CoreInv.setHost {s : State} (hs : CoreInv s) (l : List HostInput) : CoreInv (s.setHost l) := { hs with }

/-- A stage of COMPRESS or a pad stage that the invariant allows has its row in the opcode map (R45 item 1, R96). -/
theorem CoreInv.decodeSel_ok {s : State} (hs : CoreInv s) (hb : seqBusy s.phase = true) :
    ∃ i, decodeSel s.sw = .ok i := by
  obtain ⟨hwload, hwext, hvinit, hround, hhfold, hpad80, hpad00, hpadlen⟩ := decodeSel_sw s
  rcases compress_or_pad_of_seqBusy hb with hp | hp
  · have stages : ∀ st : BitVec 3, st ≤ 4 →
        st = Stage.wload ∨ st = Stage.wext ∨ st = Stage.vinit ∨ st = Stage.round ∨ st = Stage.hfold := by decide
    rcases stages _ (hs.stage_le hp) with h | h | h | h | h
    · exact ⟨_, hwload hp h⟩
    · exact ⟨_, hwext hp h⟩
    · exact ⟨_, hvinit hp h⟩
    · exact ⟨_, hround hp h⟩
    · exact ⟨_, hhfold hp h⟩
  · have padStages : ∀ q : BitVec 2, q ≤ 2 → q = PadStage.mark ∨ q = PadStage.zero ∨ q = PadStage.length := by decide
    rcases padStages _ (hs.ps_le hp) with h | h | h
    · exact ⟨_, hpad80 hp h⟩
    · exact ⟨_, hpad00 hp h⟩
    · exact ⟨_, hpadlen hp h⟩

/-- When the selector word selects WEXT, `T` is in its operand range (R45 item 5, R151). -/
theorem CoreInv.wext_operand {s : State} (hs : CoreInv s) (hd : decodeSel s.sw = .ok .wext) : 16 ≤ s.t.val := by
  obtain ⟨hp, hst⟩ : s.phase = Phase.compress ∧ s.stage.val = Stage.wext := by simpa using decodeSel_cases hd
  exact (hs.wext_ready hp hst).1

theorem quietStep_goesOn {s : State} (hs : CoreInv s) : ∃ t, quietStep s = .next t := by
  rcases cmdReady_or_seqBusy_of_le hs.phase_le with hr | hb
  · exact ⟨_, quietStep_ready hr⟩
  · obtain ⟨i, hd⟩ := hs.decodeSel_ok hb
    rw [quietStep_busy hb hd]
    exact exec_goesOn_of_seq (decodeSel_format hd) fun hw => hs.wext_operand (hw ▸ hd)

/-- Settles O50, by what the host does now: a reset and an accepted word go on in every state, and a step in which the port
accepts nothing goes on by the invariant. -/
theorem invStepGoesOn : Obligations.InvStepGoesOn := by
  intro s hs
  unfold GoesOn
  by_cases hn : NoResetNow s
  · by_cases ho : cmdReady s.phase = true ∧ ∃ c rest, Offers s c rest
    · obtain ⟨hr, c, rest, ho⟩ := ho
      rw [step_of_accepted ho hr]
      exact acceptStep_goesOn c hr
    · rw [step_of_quiet hn ho]
      exact quietStep_goesOn (hs.setHost _)
  · obtain ⟨o, rest, hh⟩ := not_noResetNow_iff.1 hn
    exact ⟨_, step_of_reset hh⟩

end Sys2Proof.Machine
end

section
/-! PROOFS, what an instruction's next state can be, said once for the statements about the state: every command's next state
(30_encoding R100, 60_exceptions R212) and every micro-operation's in the states that select it (R96). -/

namespace Sys2Proof.Machine

/-! ### Commands -/

/-- What a command does to the state from which it answers, by command: it changes nothing but the response, it enters FAULT,
or it has the effect of INIT, ABSORB or FINAL. -/
inductive CommandResult (s : State) : Instr → State → Prop where
  /-- A read, a word in FAULT, a word held: only the response differs. -/
  | answers (i : Instr) (r : Option Word) : CommandResult s i (s.setRsp r)
  /-- BAD_PHASE or LEN_OVERFLOW; INIT and RDSTAT raise neither. -/
  | faults {i : Instr} (c : Cause) (hd : Decodes s.phase) (hinit : i ≠ .init) (hstat : i ≠ .rdstat) :
      CommandResult s i (s.raise c)
  /-- INIT (44_entry_point R190). -/
  | begins (hd : Decodes s.phase) (r : Option Word) :
      CommandResult s .init ((((((((s.setH (Vector.ofFn fun i => Reg.wrote iv[i])).setLen 0).setFill 0).setFin 0).setPs
        0).setLk 0).seq Phase.absorb 0 0).setRsp r)
  /-- ABSORB (40_padder R124). -/
  | appends (b : Byte) (hp : s.phase = Phase.absorb) (hl : s.len.val ≠ lastLen) (r : Option Word) :
      CommandResult s (.absorb b) (((s.setLen (s.len.val + 8)).bufAppend b).setRsp r)
  /-- FINAL (40_padder R125). -/
  | ends (hp : s.phase = Phase.absorb) (r : Option Word) :
      CommandResult s .final (((((s.setFin 1).setPs PadStage.mark).setLk 0).setPhase Phase.pad).setRsp r)

/-- The phase check leaves to a command only its own effect, and BAD_PHASE where its row has a phase that refuses it. -/
theorem commandResult_of_command {i : Instr} {adm : BitVec 3 → Bool} {body : State → State} {s t : State}
    (h : command adm body s = .next t)
    (hbad : Decodes s.phase → adm s.phase = false → i ≠ .init ∧ i ≠ .rdstat)
    (hbody : Decodes s.phase → adm s.phase = true → CommandResult s i (body s)) : CommandResult s i t := by
  rcases command_cases h with ⟨-, rfl⟩ | ⟨-, rfl⟩ | ⟨hd, ha, rfl⟩ | ⟨hd, ha, rfl⟩
  · exact .answers i _
  · exact .answers i _
  · exact hbody hd ha
  · obtain ⟨hinit, hstat⟩ := hbad hd ha
    exact .faults .badPhase hd hinit hstat

/-- INIT and RDSTAT are admitted wherever a word is decoded (R212). -/
theorem Decodes.admitted {p : BitVec 3} (h : Decodes p) :
    (p == Phase.idle || p == Phase.absorb || p == Phase.done) = true := by
  rcases h with rfl | rfl | rfl <;> rfl

theorem exec_commandResult {i : Instr} (hi : i.format = .cmd) {s t : State} (h : exec i s = .next t) :
    CommandResult s i t := by
  cases i with
  | wload | wext | vinit | round | hfold | pad80 | pad00 | padlen => cases hi
  | init =>
    simp only [exec, execInit] at h
    exact commandResult_of_command h (fun hd ha => by rw [hd.admitted] at ha; cases ha) fun hd _ => .begins hd _
  | rdstat =>
    simp only [exec, execRdstat] at h
    exact commandResult_of_command h (fun hd ha => by rw [hd.admitted] at ha; cases ha) fun _ _ => .answers _ _
  | absorb b =>
    simp only [exec, execAbsorb] at h
    refine commandResult_of_command h (fun _ _ => ⟨nofun, nofun⟩) fun hd ha => ?_
    by_cases hl : s.len.val = lastLen
    · rw [if_pos hl]
      exact .faults _ hd nofun nofun
    · rw [if_neg hl]
      exact .appends b (by simpa using ha) hl _
  | final =>
    simp only [exec, execFinal] at h
    exact commandResult_of_command h (fun _ _ => ⟨nofun, nofun⟩) fun _ ha => .ends (by simpa using ha) _
  | rdh | rddig | rdhex =>
    simp only [exec, execRdh, execRddig, execRdhex] at h
    exact commandResult_of_command h (fun _ _ => ⟨nofun, nofun⟩) fun _ _ => .answers _ _

/-! ### Micro-operations -/

/-- `W` after WLOAD (41_compressor R150). -/
abbrev loadedWords (s : State) : Vector (Reg 32) 64 :=
  Vector.ofFn fun i => if i.val < 16 then Reg.wrote (s.blockWord (BitVec.ofNat 4 i.val)) else s.w[i]

/-- `W` after WEXT (R151). -/
abbrev extendedWords (s : State) : Vector (Reg 32) 64 :=
  s.w.set s.t.val.toNat (Reg.wrote (nextScheduleWord s)) s.t.val.isLt

/-- `V` after VINIT (R152). -/
abbrev copiedVars (s : State) : Vector (Reg 32) 8 := Vector.ofFn fun i => Reg.wrote s.h[i].val

/-- `V` after ROUND (R153). -/
abbrev turnedVars (s : State) : Vector (Reg 32) 8 := roundVars s (kAt s.t.val) (s.wWord s.t.val)

/-- `H` after HFOLD (R154). -/
abbrev foldedState (s : State) : Vector (Reg 32) 8 := Vector.ofFn fun i => Reg.wrote (s.h[i].val + s.v[i].val)

/-- What the selected micro-operation does to the state, with the PHASE, STAGE and PS that select it (R96). -/
inductive MicroResult (s : State) : Instr → State → Prop where
  | wload (hp : s.phase = Phase.compress) (hst : s.stage.val = Stage.wload) :
      MicroResult s .wload (((s.setW (loadedWords s)).seq Phase.compress Stage.wext 16).setRsp none)
  | wextMore (hp : s.phase = Phase.compress) (hst : s.stage.val = Stage.wext) (h16 : 16 ≤ s.t.val)
      (h63 : s.t.val ≠ 63) :
      MicroResult s .wext (((s.setW (extendedWords s)).setT (s.t.val + 1)).setRsp none)
  | wextLast (hp : s.phase = Phase.compress) (hst : s.stage.val = Stage.wext) (h63 : s.t.val = 63) :
      MicroResult s .wext (((s.setW (extendedWords s)).seq Phase.compress Stage.vinit 0).setRsp none)
  | vinit (hp : s.phase = Phase.compress) (hst : s.stage.val = Stage.vinit) :
      MicroResult s .vinit (((s.setV (copiedVars s)).seq Phase.compress Stage.round 0).setRsp none)
  | roundMore (hp : s.phase = Phase.compress) (hst : s.stage.val = Stage.round) (h63 : s.t.val ≠ 63) :
      MicroResult s .round (((s.setV (turnedVars s)).setT (s.t.val + 1)).setRsp none)
  | roundLast (hp : s.phase = Phase.compress) (hst : s.stage.val = Stage.round) (h63 : s.t.val = 63) :
      MicroResult s .round (((s.setV (turnedVars s)).seq Phase.compress Stage.hfold 0).setRsp none)
  | hfold (hp : s.phase = Phase.compress) (hst : s.stage.val = Stage.hfold) :
      MicroResult s .hfold (((s.setH (foldedState s)).seq (phaseAfterFold s.fin.val s.ps.val) 0 0).setRsp none)
  | padByte {i : Instr} {b : Byte} (hi : (i = .pad80 ∧ b = 0x80) ∨ (i = .pad00 ∧ b = 0x00)) (hp : s.phase = Phase.pad)
      (hps : s.ps.val ≠ PadStage.length) :
      MicroResult s i (((s.bufAppend b).setPs (padStageAt (s.fill + 1))).setRsp none)
  | padlenMore (hp : s.phase = Phase.pad) (hps : s.ps.val = PadStage.length) (h7 : s.lk.val ≠ 7) :
      MicroResult s .padlen (((s.bufAppend (lengthByte s.len.val s.lk.val)).setLk (s.lk.val + 1)).setRsp none)
  | padlenLast (hp : s.phase = Phase.pad) (hps : s.ps.val = PadStage.length) (h7 : s.lk.val = 7) :
      MicroResult s .padlen (((s.bufAppend (lengthByte s.len.val s.lk.val)).setPs PadStage.ended).setRsp none)

theorem exec_microResult {i : Instr} {s t : State} (hd : decodeSel s.sw = .ok i) (h : exec i s = .next t) :
    MicroResult s i t := by
  rcases decodeSel_cases hd with ⟨hp, hst, rfl⟩ | ⟨hp, hst, rfl⟩ | ⟨hp, hst, rfl⟩ | ⟨hp, hst, rfl⟩ | ⟨hp, hst, rfl⟩ |
    ⟨hp, hps, rfl⟩ | ⟨hp, hps, rfl⟩ | ⟨hp, hps, rfl⟩
  · rw [exec_wload] at h
    cases h
    exact .wload hp hst
  · by_cases h16 : s.t.val < 16
    · rw [exec_wext_below h16] at h
      cases h
    · by_cases h63 : s.t.val = 63
      · rw [exec_wext_last h63] at h
        cases h
        exact .wextLast hp hst h63
      · rw [exec_wext_more (BitVec.not_lt.1 h16) h63] at h
        cases h
        exact .wextMore hp hst (BitVec.not_lt.1 h16) h63
  · rw [exec_vinit] at h
    cases h
    exact .vinit hp hst
  · by_cases h63 : s.t.val = 63
    · rw [exec_round_last h63] at h
      cases h
      exact .roundLast hp hst h63
    · rw [exec_round_more h63] at h
      cases h
      exact .roundMore hp hst h63
  · rw [exec_hfold] at h
    cases h
    exact .hfold hp hst
  · rw [exec_pad80] at h
    cases h
    exact .padByte (.inl ⟨rfl, rfl⟩) hp (by rw [hps]; decide)
  · rw [exec_pad00] at h
    cases h
    exact .padByte (.inr ⟨rfl, rfl⟩) hp (by rw [hps]; decide)
  · by_cases h7 : s.lk.val = 7
    · rw [exec_padlen_last h7] at h
      cases h
      exact .padlenLast hp hps h7
    · rw [exec_padlen_more h7] at h
      cases h
      exact .padlenMore hp hps h7

/-! ### Steps -/

/-- What a step of the machine does: reset (70_reset R240), an accepted word that is a command or is none (R100), a selected
micro-operation (R96), or nothing but a response and the passing of the host's time. -/
inductive StepResult (s : State) : State → Prop where
  | reset {o : Option Offer} {rest : List HostInput} (hh : s.host = ⟨true, o⟩ :: rest) (l : List HostInput) :
      StepResult s (State.reset.setHost l)
  | command {c : CmdWord} {rest : List HostInput} {i : Instr} {t : State} (ho : Offers s c rest)
      (hd : decodeCmd c = .ok i) (hi : CommandResult (s.setHost rest) i t) : StepResult s t
  | illegal {c : CmdWord} {rest : List HostInput} (ho : Offers s c rest) (hp : Decodes s.phase) :
      StepResult s ((s.setHost rest).raise .illegalCmd)
  | micro {i : Instr} {l : List HostInput} {t : State} (hi : MicroResult (s.setHost l) i t) : StepResult s t
  | rests (l : List HostInput) (r : Option Word) : StepResult s ((s.setHost l).setRsp r)

theorem step_result {s t : State} (h : step s = .next t) : StepResult s t := by
  rcases step_cases h with ⟨⟨o, rest, hh⟩, rfl⟩ | ⟨c, rest, ho, hr, ha⟩ | ⟨-, hq⟩
  · exact .reset hh _
  · rcases acceptStep_cases ha with ⟨-, rfl⟩ | ⟨-, i, hd, he⟩ | ⟨hf, -, rfl⟩
    · exact .rests rest _
    · exact .command ho hd (exec_commandResult (decodeCmd_format hd) he)
    · exact .illegal ho ((decodes_or_fault_of_cmdReady hr).resolve_right hf)
  · rcases quietStep_cases hq with ⟨-, i, hd, he⟩ | ⟨-, -, rfl⟩
    · exact .micro (exec_microResult hd he)
    · exact .rests _ none

end Sys2Proof.Machine
end

section
/-! PROOFS, the frame of an instruction (10_state R20, column of the writers): read off from what it does. -/

namespace Sys2Proof.Machine

/-! ### The frame (10_state R20) -/

/-- The frame, register by register: a written register drops out of it. -/
theorem keepsBut_iff {l : List RegName} {s t : State} :
    KeepsBut l s t ↔
      (.h ∉ l → t.h = s.h) ∧ (.v ∉ l → t.v = s.v) ∧ (.w ∉ l → t.w = s.w) ∧ (.b ∉ l → t.b = s.b) ∧
      (.len ∉ l → t.len = s.len) ∧ (.fill ∉ l → t.fill = s.fill) ∧ (.phase ∉ l → t.phase = s.phase) ∧
      (.stage ∉ l → t.stage = s.stage) ∧ (.t ∉ l → t.t = s.t) ∧ (.fin ∉ l → t.fin = s.fin) ∧
      (.ps ∉ l → t.ps = s.ps) ∧ (.lk ∉ l → t.lk = s.lk) ∧ (.fcode ∉ l → t.fcode = s.fcode) ∧ t.host = s.host := by
  constructor
  · rintro ⟨hr, hh⟩
    exact ⟨hr .h, hr .v, hr .w, hr .b, hr .len, hr .fill, hr .phase, hr .stage, hr .t, hr .fin, hr .ps, hr .lk,
      hr .fcode, hh⟩
  · rintro ⟨hh, hv, hw, hb, hlen, hfill, hphase, hstage, ht, hfin, hps, hlk, hfcode, hhost⟩
    refine ⟨fun r hr => ?_, hhost⟩
    cases r with
    | h => exact hh hr
    | v => exact hv hr
    | w => exact hw hr
    | b => exact hb hr
    | len => exact hlen hr
    | fill => exact hfill hr
    | phase => exact hphase hr
    | stage => exact hstage hr
    | t => exact ht hr
    | fin => exact hfin hr
    | ps => exact hps hr
    | lk => exact hlk hr
    | fcode => exact hfcode hr

/-- A frame still holds when more registers are taken out of it. -/
theorem KeepsBut.mono {l m : List RegName} {s t : State} (h : KeepsBut l s t) (hlm : l ⊆ m) : KeepsBut m s t :=
  ⟨fun r hr => h.1 r fun hl => hr (hlm hl), h.2⟩

/-- A command that can raise a fault may write what fault entry writes. -/
theorem faultEntry_subset_mayWrite {i : Instr} (hi : i.format = .cmd) (hinit : i ≠ .init) (hstat : i ≠ .rdstat) :
    [RegName.phase, .fcode] ⊆ mayWrite i := by
  cases i with
  | wload | wext | vinit | round | hfold | pad80 | pad00 | padlen => cases hi
  | init => exact absurd rfl hinit
  | rdstat => exact absurd rfl hstat
  | absorb | final | rdh | rddig | rdhex => simp [mayWrite]

theorem CommandResult.frame {i : Instr} (hi : i.format = .cmd) {s t : State} (h : CommandResult s i t) :
    KeepsBut (mayWrite i) s t := by
  cases h with
  | answers i r => simp [keepsBut_iff]
  | faults c hd hinit hstat => exact (raise_raised c s).2.2.2.mono (faultEntry_subset_mayWrite hi hinit hstat)
  | begins hd r => simp [keepsBut_iff, mayWrite]
  | appends b hp hl r => simp [keepsBut_iff, mayWrite]
  | ends hp r => simp [keepsBut_iff, mayWrite]

theorem MicroResult.frame {i : Instr} {s t : State} (h : MicroResult s i t) : KeepsBut (mayWrite i) s t := by
  cases h with
  | wload hp hst => simp [keepsBut_iff, mayWrite, hp]
  | wextMore hp hst h16 h63 => simp [keepsBut_iff, mayWrite]
  | wextLast hp hst h63 => simp [keepsBut_iff, mayWrite, hp]
  | vinit hp hst => simp [keepsBut_iff, mayWrite, hp]
  | roundMore hp hst h63 => simp [keepsBut_iff, mayWrite]
  | roundLast hp hst h63 => simp [keepsBut_iff, mayWrite, hp]
  | hfold hp hst => simp [keepsBut_iff, mayWrite]
  | padByte hi hp hps => rcases hi with ⟨rfl, -⟩ | ⟨rfl, -⟩ <;> simp [keepsBut_iff, mayWrite]
  | padlenMore hp hps h7 => simp [keepsBut_iff, mayWrite]
  | padlenLast hp hps h7 => simp [keepsBut_iff, mayWrite]

/-- Settles O52, from what a command and a selected micro-operation do. -/
theorem instructionsWriteOnlyTheirRegisters : Obligations.InstructionsWriteOnlyTheirRegisters := by
  intro i s t hsel h
  cases hf : i.format with
  | cmd => exact (exec_commandResult hf h).frame hf
  | seq => exact (exec_microResult (hsel hf) h).frame

end Sys2Proof.Machine
end

section
/-! PROOFS, the status word and the flags (10_state R30, R34). -/

namespace Sys2Proof.Machine

theorem State.dv_eq_one_iff (s : State) : s.dv = 1 ↔ s.phase = Phase.done := by
  unfold State.dv; split <;> simp_all

theorem State.flt_eq_one_iff (s : State) : s.flt = 1 ↔ s.phase = Phase.fault := by
  unfold State.flt; split <;> simp_all

theorem State.dv_eq_zero_iff (s : State) : s.dv = 0 ↔ s.phase ≠ Phase.done := by
  unfold State.dv; split <;> simp_all

theorem State.flt_eq_zero_iff (s : State) : s.flt = 0 ↔ s.phase ≠ Phase.fault := by
  unfold State.flt; split <;> simp_all

/-- Bit `k` of the status word, from the field that holds it (R34). -/
theorem State.status_getLsbD (s : State) {k : Nat} (hk : k < 32) : s.status.getLsbD k =
    (s.phase.getLsbD k || (decide (3 ≤ k) && s.dv.getLsbD (k - 3)) || (decide (4 ≤ k) && s.flt.getLsbD (k - 4)) ||
      (decide (8 ≤ k) && s.fcode.getLsbD (k - 8)) || (decide (16 ≤ k) && s.fill.getLsbD (k - 16))) := by
  have from_below (m : Nat) : (!decide (k < m)) = decide (m ≤ k) := by rw [← decide_not, decide_eq_decide, Nat.not_lt]
  simp [State.status, hk, from_below]

/-- A field of the status word, given bit by bit. -/
theorem State.status_extract {s : State} {a n : Nat} {x : BitVec n} (ha : a + n ≤ 32)
    (h : ∀ i < n, (s.phase.getLsbD (a + i) || (decide (3 ≤ a + i) && s.dv.getLsbD (a + i - 3)) ||
      (decide (4 ≤ a + i) && s.flt.getLsbD (a + i - 4)) || (decide (8 ≤ a + i) && s.fcode.getLsbD (a + i - 8)) ||
      (decide (16 ≤ a + i) && s.fill.getLsbD (a + i - 16))) = x.getLsbD i) : s.status.extractLsb' a n = x := by
  apply BitVec.eq_of_getLsbD_eq
  intro i hi
  rw [BitVec.getLsbD_extractLsb', decide_eq_true hi, Bool.true_and, s.status_getLsbD (by omega), h i hi]

/-- Settles O34: each field lies where no other field and no shift reaches, so its bits are its own; the bits between the
fields are nobody's. -/
theorem statusWordFields : Obligations.StatusWordFields := by
  intro s
  have hdv : s.status.extractLsb' 3 1 = s.dv := State.status_extract (by omega) fun i hi => by interval_cases i; simp
  have hflt : s.status.extractLsb' 4 1 = s.flt := State.status_extract (by omega) fun i hi => by interval_cases i; simp
  rw [hdv, hflt]
  refine ⟨?_, s.dv_eq_one_iff, s.flt_eq_one_iff, ?_, ?_, ?_, ?_, ?_⟩
  all_goals
    refine State.status_extract (by omega) fun i hi => ?_
    interval_cases i <;> simp

end Sys2Proof.Machine
end

section
/-! PROOFS, the invariant of 10_state R45: it holds at reset, and every step keeps it. -/

namespace Sys2Proof.Machine

/-! ### The invariant, phase by phase: what there is to show of a state whose phase is known -/

/-- What the invariant asks in each of ABSORB, COMPRESS, PAD and DONE alike: the registers of R45 item 2 have been written, LEN
counts whole bytes (item 3), and no fault is noted (item 7). -/
structure HashOpen (s : State) : Prop where
  h : ∀ i : Fin 8, s.h[i].written = true
  len : s.len.written = true
  fin : s.fin.written = true
  ps : s.ps.written = true
  lk : s.lk.written = true
  stage : s.stage.written = true
  t : s.t.written = true
  len_mod : s.len.val.toNat % 8 = 0
  fcode : s.fcode = 0

/-- Which operands of the micro-operation at the current stage of COMPRESS are ready (R45 item 5), and where `T` stands
(10_state R26). -/
inductive StageReady (s : State) : Prop where
  | wload (hst : s.stage.val = Stage.wload) (ht : s.t.val = 0)
  | wext (hst : s.stage.val = Stage.wext) (ht : 16 ≤ s.t.val)
      (hw : ∀ i : Fin 64, i.val < s.t.val.toNat → s.w[i].written = true)
  | vinit (hst : s.stage.val = Stage.vinit) (ht : s.t.val = 0) (hw : ∀ i : Fin 64, s.w[i].written = true)
  | round (hst : s.stage.val = Stage.round) (hw : ∀ i : Fin 64, s.w[i].written = true)
      (hv : ∀ i : Fin 8, s.v[i].written = true)
  | hfold (hst : s.stage.val = Stage.hfold) (ht : s.t.val = 0) (hw : ∀ i : Fin 64, s.w[i].written = true)
      (hv : ∀ i : Fin 8, s.v[i].written = true)

/-- What the stage of COMPRESS asks for, in the words of the invariant. -/
theorem StageReady.operands {s : State} (hr : StageReady s) :
    s.stage.val ≤ 4 ∧
      (s.stage.val = Stage.wext → 16 ≤ s.t.val ∧ ∀ i : Fin 64, i.val < s.t.val.toNat → s.w[i].written = true) ∧
      (Stage.vinit ≤ s.stage.val → ∀ i : Fin 64, s.w[i].written = true) ∧
      (Stage.round ≤ s.stage.val → ∀ i : Fin 8, s.v[i].written = true) ∧
      (s.stage.val ≠ Stage.wext → s.stage.val ≠ Stage.round → s.t.val = 0) := by
  cases hr with
  | wload hst ht => simp [hst, ht]
  | wext hst ht hw => simpa [hst] using ⟨ht, hw⟩
  | vinit hst ht hw => simpa [hst, ht] using hw
  | round hst hw hv => simpa [hst] using ⟨hw, hv⟩
  | hfold hst ht hw hv => simpa [hst, ht] using ⟨hw, hv⟩

theorem HashOpen.registers {s : State} (ho : HashOpen s) :
    (∀ i : Fin 8, s.h[i].written = true) ∧ s.len.written = true ∧ s.fin.written = true ∧ s.ps.written = true ∧
      s.lk.written = true ∧ s.stage.written = true ∧ s.t.written = true :=
  ⟨ho.h, ho.len, ho.fin, ho.ps, ho.lk, ho.stage, ho.t⟩

theorem CoreInv.of_idle {s : State} (hp : s.phase = Phase.idle) (hc : s.fcode = 0)
    (hi : s.fill = 0 ∧ s.len.written = false ∧ s.fin.written = false ∧ s.ps.written = false ∧ s.lk.written = false ∧
      s.stage.written = false ∧ s.t.written = false ∧ (∀ i : Fin 8, s.h[i].written = false ∧ s.v[i].written = false) ∧
      (∀ i : Fin 64, s.w[i].written = false ∧ s.b[i].written = false)) : CoreInv s := by
  constructor
  case idle_state => exact fun _ => hi
  case len_mod => simp [hi.2.1]
  all_goals simp [hp, hc]

theorem CoreInv.of_fault {s : State} (hp : s.phase = Phase.fault) (hc : s.fcode ≠ 0) (hc' : s.fcode ≤ 3)
    (hlen : s.len.written = true → s.len.val.toNat % 8 = 0) : CoreInv s := by
  constructor
  case len_mod => exact hlen
  case fcode_iff => exact iff_of_true hc hp
  case fcode_le => exact hc'
  all_goals simp [hp]

theorem CoreInv.of_absorb {s : State} (hp : s.phase = Phase.absorb) (ho : HashOpen s)
    (hfill : s.fill.toNat = s.len.val.toNat / 8 % 64) (hfin : s.fin.val = 0)
    (hbuf : ∀ i : Fin 64, i.val < s.fill.toNat → s.b[i].written = true) (hst : s.stage.val = 0) (ht : s.t.val = 0) :
    CoreInv s := by
  constructor
  case opened => exact fun _ _ => ho.registers
  case len_mod => exact fun _ => ho.len_mod
  case absorb_fill => exact fun _ => ⟨hfill, hfin⟩
  case buffer_below => exact fun _ => hbuf
  case stage_rest => exact fun _ => ⟨hst, ht⟩
  all_goals simp [hp, ho.fcode]

theorem CoreInv.of_pad {s : State} (hp : s.phase = Phase.pad) (ho : HashOpen s) (hps : s.ps.val ≤ 2)
    (hfill : s.ps.val = PadStage.length → s.fill.toNat = 56 + s.lk.val.toNat)
    (hlk : s.ps.val ≠ PadStage.length → s.lk.val = 0) (hfin : s.fin.val = 1)
    (hbuf : ∀ i : Fin 64, i.val < s.fill.toNat → s.b[i].written = true) (hst : s.stage.val = 0) (ht : s.t.val = 0) :
    CoreInv s := by
  constructor
  case ps_le => exact fun _ => hps
  case opened => exact fun _ _ => ho.registers
  case len_mod => exact fun _ => ho.len_mod
  case length_fill => exact fun _ => hfill
  case buffer_below => exact fun _ => hbuf
  case pad_state => exact fun _ => ⟨hfin, hlk⟩
  case stage_rest => exact fun _ => ⟨hst, ht⟩
  all_goals simp [hp, ho.fcode]

theorem CoreInv.of_done {s : State} (hp : s.phase = Phase.done) (ho : HashOpen s) (hfill : s.fill = 0)
    (hps : s.ps.val = PadStage.ended) (hfin : s.fin.val = 1) (hst : s.stage.val = 0) (ht : s.t.val = 0) : CoreInv s := by
  constructor
  case opened => exact fun _ _ => ho.registers
  case len_mod => exact fun _ => ho.len_mod
  case done_state => exact fun _ => ⟨hfill, hps, hfin⟩
  case stage_rest => exact fun _ => ⟨hst, ht⟩
  all_goals simp [hp, ho.fcode]

theorem CoreInv.of_compress {s : State} (hp : s.phase = Phase.compress) (ho : HashOpen s)
    (hb : ∀ i : Fin 64, s.b[i].written = true) (hfill : s.fill = 0)
    (hlen : s.fin.val = 0 → s.len.val.toNat / 8 % 64 = 0)
    (hfin : s.fin.val = 1 → s.ps.val = PadStage.ended ∨ (s.ps.val = PadStage.zero ∧ s.lk.val = 0))
    (hr : StageReady s) : CoreInv s := by
  obtain ⟨hle, hwext, hschedule, hvars, hsingle⟩ := hr.operands
  constructor
  case stage_le => exact fun _ => hle
  case opened => exact fun _ _ => ho.registers
  case len_mod => exact fun _ => ho.len_mod
  case buffer_full => exact fun _ => ⟨hb, hfill⟩
  case wext_ready => exact fun _ => hwext
  case schedule_ready => exact fun _ => hschedule
  case vars_ready => exact fun _ => hvars
  case compress_len => exact fun _ => hlen
  case compress_fin => exact fun _ => hfin
  case single_t => exact fun _ => hsingle
  all_goals simp [hp, ho.fcode]

/-! ### What keeps a hash open -/

theorem HashOpen.setLen {s : State} (ho : HashOpen s) {x : BitVec 64} (hx : x.toNat % 8 = 0) : HashOpen (s.setLen x) :=
  { ho with len := rfl, len_mod := hx }

theorem HashOpen.setFin {s : State} (ho : HashOpen s) (x : BitVec 1) : HashOpen (s.setFin x) := { ho with fin := rfl }

theorem HashOpen.setPs {s : State} (ho : HashOpen s) (x : BitVec 2) : HashOpen (s.setPs x) := { ho with ps := rfl }

theorem HashOpen.setLk {s : State} (ho : HashOpen s) (x : BitVec 3) : HashOpen (s.setLk x) := { ho with lk := rfl }

theorem HashOpen.setPhase {s : State} (ho : HashOpen s) (x : BitVec 3) : HashOpen (s.setPhase x) := { ho with }

theorem HashOpen.setFill {s : State} (ho : HashOpen s) (x : BitVec 6) : HashOpen (s.setFill x) := { ho with }

theorem HashOpen.setB {s : State} (ho : HashOpen s) (f : Vector (Reg 8) 64) : HashOpen (s.setB f) := { ho with }

theorem HashOpen.seq {s : State} (ho : HashOpen s) (p st : BitVec 3) (x : BitVec 6) : HashOpen (s.seq p st x) :=
  { ho with stage := rfl, t := rfl }

theorem HashOpen.bufAppend {s : State} (ho : HashOpen s) (x : Byte) : HashOpen (s.bufAppend x) := by
  unfold State.bufAppend
  split
  · exact ((ho.setB _).setFill _).seq ..
  · exact (ho.setB _).setFill _

/-! ### What the invariant gives, and what an append and a write to `W` add -/

theorem CoreInv.hashOpen {s : State} (hs : CoreInv s) {p : BitVec 3} (hp : s.phase = p)
    (hi : p ≠ Phase.idle := by decide) (hf : p ≠ Phase.fault := by decide) : HashOpen s := by
  subst hp
  obtain ⟨hh, hlen, hfin, hps, hlk, hst, ht⟩ := hs.opened hi hf
  exact ⟨hh, hlen, hfin, hps, hlk, hst, ht, hs.len_mod hlen, by_contra fun hc => hf (hs.fcode_iff.1 hc)⟩

/-- The invariant speaks of registers only, not of the response. -/
theorem CoreInv.setRsp {s : State} (hs : CoreInv s) (r : Option Word) : CoreInv (s.setRsp r) := { hs with }

/-- A register file written below index `k` is, after a write at `k`, written below `k + 1`. -/
theorem written_set_of_lt {n m k : Nat} {file : Vector (Reg n) m} (hk : k < m) (x : BitVec n)
    (h : ∀ i : Fin m, i.val < k → file[i].written = true) (i : Fin m) (hi : i.val < k + 1) :
    (file.set k (Reg.wrote x) hk)[i].written = true := by
  rw [Fin.getElem_fin, Vector.getElem_set]
  split
  · rfl
  · exact h i (by omega)

/-- FILL counts on while the block has room. -/
theorem toNat_fill_add_one {x : BitVec 6} (h : x ≠ 63) : (x + 1).toNat = x.toNat + 1 := by bv_omega

/-- LEN counts on: below 2^64 - 8 a multiple of 8 does not wrap (10_state R31). -/
theorem toNat_len_add_eight {len : BitVec 64} (hmod : len.toNat % 8 = 0) (hl : len ≠ lastLen) :
    (len + 8).toNat = len.toNat + 8 := by
  unfold lastLen at hl
  bv_omega

/-! ### Commands -/

theorem Cause.code_ne_zero (c : Cause) : c.code ≠ 0 := by cases c <;> decide

theorem Cause.one_le_code (c : Cause) : 1 ≤ c.code := by cases c <;> decide

theorem Cause.code_le (c : Cause) : c.code ≤ 3 := by cases c <;> decide

theorem CoreInv.raise {s : State} (hs : CoreInv s) (c : Cause) : CoreInv (s.raise c) :=
  .of_fault rfl c.code_ne_zero c.code_le hs.len_mod

theorem CoreInv.init {s : State} (hs : CoreInv s) (hd : Decodes s.phase) :
    CoreInv (((((((s.setH (Vector.ofFn fun i => Reg.wrote iv[i])).setLen 0).setFill 0).setFin 0).setPs 0).setLk 0).seq
      Phase.absorb 0 0) := by
  have hc : s.fcode = 0 := by_contra fun hc => hd.ready.2.2 (hs.fcode_iff.1 hc)
  refine .of_absorb rfl ⟨fun i => ?_, rfl, rfl, rfl, rfl, rfl, rfl, rfl, hc⟩ ?_ rfl (fun i hi => ?_) rfl rfl
  · simp
  · simp
  · exact absurd hi (Nat.not_lt_zero _)

theorem CoreInv.absorb {s : State} (hs : CoreInv s) (hp : s.phase = Phase.absorb) (hl : s.len.val ≠ lastLen) (b : Byte) :
    CoreInv ((s.setLen (s.len.val + 8)).bufAppend b) := by
  have ho := hs.hashOpen hp
  have hlen := toNat_len_add_eight ho.len_mod hl
  have ho' : HashOpen ((s.setLen (s.len.val + 8)).bufAppend b) :=
    (ho.setLen (by have := ho.len_mod; omega)).bufAppend b
  obtain ⟨hfill, hfin⟩ := hs.absorb_fill hp
  have hbuf := written_set_of_lt s.fill.isLt b (hs.buffer_below (.inl hp))
  by_cases h63 : s.fill = 63
  · rw [bufAppend_full (s := s.setLen _) h63] at ho' ⊢
    have hfull : s.fill.toNat = 63 := by rw [h63]; rfl
    refine .of_compress rfl ho' (fun i => hbuf i (by omega)) rfl (fun _ => ?_)
      (fun h1 => absurd (hfin.symm.trans h1) (by decide)) (.wload rfl rfl)
    show (s.len.val + 8).toNat / 8 % 64 = 0
    omega
  · rw [bufAppend_room (s := s.setLen _) h63] at ho' ⊢
    have hnext := toNat_fill_add_one h63
    obtain ⟨hst, ht⟩ := hs.stage_rest (.inl hp)
    refine .of_absorb hp ho' ?_ hfin (fun i hi => hbuf i (hnext ▸ hi)) hst ht
    show (s.fill + 1).toNat = (s.len.val + 8).toNat / 8 % 64
    omega

theorem CoreInv.final {s : State} (hs : CoreInv s) (hp : s.phase = Phase.absorb) :
    CoreInv ((((s.setFin 1).setPs PadStage.mark).setLk 0).setPhase Phase.pad) := by
  have ho := hs.hashOpen hp
  obtain ⟨hst, ht⟩ := hs.stage_rest (.inl hp)
  exact .of_pad rfl ((((ho.setFin 1).setPs _).setLk 0).setPhase _) (show PadStage.mark ≤ 2 by decide) nofun (fun _ => rfl) rfl
    (hs.buffer_below (.inl hp)) hst ht

theorem CommandResult.inv {i : Instr} {s t : State} (hs : CoreInv s) (h : CommandResult s i t) : CoreInv t := by
  cases h with
  | answers i r => exact hs.setRsp r
  | faults c hd hinit hstat => exact hs.raise c
  | begins hd r => exact (hs.init hd).setRsp r
  | appends b hp hl r => exact (hs.absorb hp hl b).setRsp r
  | ends hp r => exact (hs.final hp).setRsp r

/-! ### The compressor's micro-operations -/

/-- Inside a block, from WLOAD to the last ROUND, only the stage, its operands `V` and `W`, and `T` change. -/
theorem CoreInv.of_stage {s t : State} (hs : CoreInv s) (hp : s.phase = Phase.compress)
    (hk : KeepsBut [.v, .w, .stage, .t] s t) (hst : t.stage.written = true) (ht : t.t.written = true)
    (hr : StageReady t) : CoreInv t := by
  have ho := hs.hashOpen hp
  obtain ⟨hb, hfill⟩ := hs.buffer_full hp
  have hlen := hs.compress_len hp
  have hfin := hs.compress_fin hp
  simp only [keepsBut_iff, List.mem_cons, reduceCtorEq, List.not_mem_nil, or_false, false_or, not_false_eq_true,
    forall_const, not_true_eq_false, false_imp_iff, true_and] at hk
  obtain ⟨kh, kb, klen, kfill, kphase, kfin, kps, klk, kfcode, -⟩ := hk
  refine .of_compress (kphase.trans hp) ⟨?_, ?_, ?_, ?_, ?_, hst, ht, ?_, ?_⟩ ?_ ?_ ?_ ?_ hr
  · rw [kh]; exact ho.h
  · rw [klen]; exact ho.len
  · rw [kfin]; exact ho.fin
  · rw [kps]; exact ho.ps
  · rw [klk]; exact ho.lk
  · rw [klen]; exact ho.len_mod
  · rw [kfcode]; exact ho.fcode
  · rw [kb]; exact hb
  · rw [kfill]; exact hfill
  · rw [klen, kfin]; exact hlen
  · rw [kfin, kps, klk]; exact hfin

theorem loadedWords_written (s : State) (i : Fin 64) (hi : i.val < 16) : (loadedWords s)[i].written = true := by
  simp [loadedWords, hi]

theorem roundVars_written (s : State) (k w : Word) (i : Fin 8) : (roundVars s k w)[i].written = true := by
  fin_cases i <;> rfl

theorem CoreInv.wload {s : State} (hs : CoreInv s) (hp : s.phase = Phase.compress) :
    CoreInv ((s.setW (loadedWords s)).seq Phase.compress Stage.wext 16) :=
  hs.of_stage hp (by simp [keepsBut_iff, hp]) rfl rfl (.wext rfl (show 16 ≤ 16 by decide) (loadedWords_written s))

theorem CoreInv.wext_more {s : State} (hs : CoreInv s) (hp : s.phase = Phase.compress) (hst : s.stage.val = Stage.wext)
    (h63 : s.t.val ≠ 63) : CoreInv ((s.setW (extendedWords s)).setT (s.t.val + 1)) := by
  obtain ⟨h16, hw⟩ := hs.wext_ready hp hst
  have ho := hs.hashOpen hp
  have hnext := toNat_fill_add_one h63
  refine hs.of_stage hp (by simp [keepsBut_iff]) ho.stage rfl (.wext hst ?_ fun i hi => ?_)
  · show 16 ≤ s.t.val + 1
    bv_omega
  · exact written_set_of_lt s.t.val.isLt _ hw i (hnext ▸ hi)

theorem CoreInv.wext_last {s : State} (hs : CoreInv s) (hp : s.phase = Phase.compress) (hst : s.stage.val = Stage.wext)
    (h63 : s.t.val = 63) : CoreInv ((s.setW (extendedWords s)).seq Phase.compress Stage.vinit 0) := by
  obtain ⟨-, hw⟩ := hs.wext_ready hp hst
  have hlast : s.t.val.toNat = 63 := by rw [h63]; rfl
  exact hs.of_stage hp (by simp [keepsBut_iff, hp]) rfl rfl
    (.vinit rfl rfl fun i => written_set_of_lt s.t.val.isLt _ hw i (by omega))

theorem CoreInv.vinit {s : State} (hs : CoreInv s) (hp : s.phase = Phase.compress) (hst : s.stage.val = Stage.vinit) :
    CoreInv ((s.setV (copiedVars s)).seq Phase.compress Stage.round 0) :=
  hs.of_stage hp (by simp [keepsBut_iff, hp]) rfl rfl
    (.round rfl (hs.schedule_ready hp (by rw [hst]; decide)) fun i => by simp)

theorem CoreInv.round_more {s : State} (hs : CoreInv s) (hp : s.phase = Phase.compress) (hst : s.stage.val = Stage.round) :
    CoreInv ((s.setV (turnedVars s)).setT (s.t.val + 1)) :=
  hs.of_stage hp (by simp [keepsBut_iff]) (hs.hashOpen hp).stage rfl
    (.round hst (hs.schedule_ready hp (by rw [hst]; decide)) (roundVars_written s _ _))

theorem CoreInv.round_last {s : State} (hs : CoreInv s) (hp : s.phase = Phase.compress) (hst : s.stage.val = Stage.round) :
    CoreInv ((s.setV (turnedVars s)).seq Phase.compress Stage.hfold 0) :=
  hs.of_stage hp (by simp [keepsBut_iff, hp]) rfl rfl
    (.hfold rfl rfl (hs.schedule_ready hp (by rw [hst]; decide)) (roundVars_written s _ _))

/-- FIN is one bit. -/
theorem fin_zero_or_one (x : BitVec 1) : x = 0 ∨ x = 1 := by revert x; decide

/-- The block that HFOLD ends is a message block, the last block of the padding or one before it (41_compressor R154). -/
theorem CoreInv.hfold {s : State} (hs : CoreInv s) (hp : s.phase = Phase.compress) :
    CoreInv ((s.setH (foldedState s)).seq (phaseAfterFold s.fin.val s.ps.val) 0 0) := by
  have ho : HashOpen ((s.setH (foldedState s)).seq (phaseAfterFold s.fin.val s.ps.val) 0 0) :=
    { hs.hashOpen hp with h := fun i => by simp, stage := rfl, t := rfl }
  have hfill : s.fill = 0 := (hs.buffer_full hp).2
  have hempty : ∀ i : Fin 64, i.val < s.fill.toNat → s.b[i].written = true := by simp [hfill]
  rcases fin_zero_or_one s.fin.val with h0 | h1
  · refine .of_absorb ?_ ho ?_ h0 hempty rfl rfl
    · exact if_pos h0
    · show s.fill.toNat = s.len.val.toNat / 8 % 64
      rw [hfill, hs.compress_len hp h0]
      rfl
  · have hphase : phaseAfterFold s.fin.val s.ps.val = if s.ps.val = PadStage.ended then Phase.done else Phase.pad :=
      if_neg (by rw [h1]; decide)
    rcases hs.compress_fin hp h1 with hps | ⟨hps, hlk⟩
    · exact .of_done (hphase.trans (if_pos hps)) ho hfill hps h1 rfl rfl
    · have hzero : PadStage.zero ≠ PadStage.length := by decide
      refine .of_pad (hphase.trans (if_neg (by rw [hps]; decide))) ho ?_ ?_ (fun _ => hlk) h1 hempty rfl rfl
      · show s.ps.val ≤ 2
        rw [hps]; decide
      · exact fun hl => absurd (hps.symm.trans hl) hzero

/-! ### The padder's micro-operations -/

theorem padStageAt_cases (x : BitVec 6) :
    (x = 56 ∧ padStageAt x = PadStage.length) ∨ (x ≠ 56 ∧ padStageAt x = PadStage.zero) := by
  unfold padStageAt
  split
  · rename_i h
    exact .inl ⟨h, rfl⟩
  · rename_i h
    exact .inr ⟨h, rfl⟩

/-- A marker or zero byte: the length field starts at fill level 56 (40_padder R126, R127). -/
theorem CoreInv.pad_byte {s : State} (hs : CoreInv s) (hp : s.phase = Phase.pad) (hps : s.ps.val ≠ PadStage.length)
    (b : Byte) : CoreInv ((s.bufAppend b).setPs (padStageAt (s.fill + 1))) := by
  have ho := ((hs.hashOpen hp).bufAppend b).setPs (padStageAt (s.fill + 1))
  obtain ⟨hfin, hlk⟩ := hs.pad_state hp
  have hbuf := written_set_of_lt s.fill.isLt b (hs.buffer_below (.inr hp))
  by_cases h63 : s.fill = 63
  · rw [bufAppend_full h63] at ho ⊢
    have hfull : s.fill.toNat = 63 := by rw [h63]; rfl
    exact .of_compress rfl ho (fun i => hbuf i (by omega)) rfl
      (fun h0 => absurd (hfin.symm.trans h0) (by decide)) (fun _ => .inr ⟨by rw [h63]; rfl, hlk hps⟩) (.wload rfl rfl)
  · rw [bufAppend_room h63] at ho ⊢
    have hnext := toNat_fill_add_one h63
    obtain ⟨hst, ht⟩ := hs.stage_rest (.inr (.inl hp))
    refine .of_pad hp ho ?_ ?_ (fun _ => hlk hps) hfin (fun i hi => hbuf i (hnext ▸ hi)) hst ht
    · show padStageAt (s.fill + 1) ≤ 2
      rcases padStageAt_cases (s.fill + 1) with ⟨-, h⟩ | ⟨-, h⟩ <;> rw [h] <;> decide
    · intro hl
      show (s.fill + 1).toNat = 56 + s.lk.val.toNat
      rcases padStageAt_cases (s.fill + 1) with ⟨h56, -⟩ | ⟨-, h⟩
      · rw [h56, hlk hps]; rfl
      · exact absurd (h.symm.trans hl) (by decide)

theorem CoreInv.padlen_more {s : State} (hs : CoreInv s) (hp : s.phase = Phase.pad) (hps : s.ps.val = PadStage.length)
    (h7 : s.lk.val ≠ 7) (b : Byte) : CoreInv ((s.bufAppend b).setLk (s.lk.val + 1)) := by
  have ho := ((hs.hashOpen hp).bufAppend b).setLk (s.lk.val + 1)
  have hfill := hs.length_fill hp hps
  have hlk : (s.lk.val + 1).toNat = s.lk.val.toNat + 1 := by bv_omega
  have h63 : s.fill ≠ 63 := by bv_omega
  rw [bufAppend_room h63] at ho ⊢
  have hnext := toNat_fill_add_one h63
  have hbuf := written_set_of_lt s.fill.isLt b (hs.buffer_below (.inr hp))
  obtain ⟨hst, ht⟩ := hs.stage_rest (.inr (.inl hp))
  refine .of_pad hp ho (hs.ps_le hp) (fun _ => ?_) (absurd hps) (hs.pad_state hp).1
    (fun i hi => hbuf i (hnext ▸ hi)) hst ht
  show (s.fill + 1).toNat = 56 + (s.lk.val + 1).toNat
  omega

theorem CoreInv.padlen_last {s : State} (hs : CoreInv s) (hp : s.phase = Phase.pad) (hps : s.ps.val = PadStage.length)
    (h7 : s.lk.val = 7) (b : Byte) : CoreInv ((s.bufAppend b).setPs PadStage.ended) := by
  have ho := ((hs.hashOpen hp).bufAppend b).setPs PadStage.ended
  obtain ⟨hfin, -⟩ := hs.pad_state hp
  have hfull : s.fill.toNat = 63 := by rw [hs.length_fill hp hps, h7]; rfl
  have hbuf := written_set_of_lt s.fill.isLt b (hs.buffer_below (.inr hp))
  rw [bufAppend_full (BitVec.eq_of_toNat_eq hfull)] at ho ⊢
  exact .of_compress rfl ho (fun i => hbuf i (by omega)) rfl
    (fun h0 => absurd (hfin.symm.trans h0) (by decide)) (fun _ => .inl rfl) (.wload rfl rfl)

theorem MicroResult.inv {i : Instr} {s t : State} (hs : CoreInv s) (h : MicroResult s i t) : CoreInv t := by
  cases h with
  | wload hp hst => exact (hs.wload hp).setRsp none
  | wextMore hp hst h16 h63 => exact (hs.wext_more hp hst h63).setRsp none
  | wextLast hp hst h63 => exact (hs.wext_last hp hst h63).setRsp none
  | vinit hp hst => exact (hs.vinit hp hst).setRsp none
  | roundMore hp hst h63 => exact (hs.round_more hp hst).setRsp none
  | roundLast hp hst h63 => exact (hs.round_last hp hst).setRsp none
  | hfold hp hst => exact (hs.hfold hp).setRsp none
  | padByte hi hp hps => exact (hs.pad_byte hp hps _).setRsp none
  | padlenMore hp hps h7 => exact (hs.padlen_more hp hps h7 _).setRsp none
  | padlenLast hp hps h7 => exact (hs.padlen_last hp hps h7 _).setRsp none

/-! ### Reset and every step -/

/-- Settles O48. -/
theorem resetMeetsInv : Obligations.ResetMeetsInv := by
  refine CoreInv.of_idle rfl rfl ⟨rfl, rfl, rfl, rfl, rfl, rfl, rfl, fun i => ?_, fun i => ?_⟩
  · simp [State.reset]
  · simp [State.reset]

/-- Settles O49, by what a step can be. -/
theorem stepKeepsInv : Obligations.StepKeepsInv := by
  intro s t hs h
  cases step_result h with
  | reset hh l => exact CoreInv.setHost resetMeetsInv l
  | command ho hd hi => exact hi.inv (hs.setHost _)
  | illegal ho hp => exact (hs.setHost _).raise _
  | micro hi => exact hi.inv (hs.setHost _)
  | rests l r => exact (hs.setHost l).setRsp r

end Sys2Proof.Machine
end

section
/-! PROOFS, the flags DV and FLT (10_state R30): what each kind of step does to PHASE. -/

namespace Sys2Proof.Machine

/-- The byte path starts the compressor when the block is full (R123). -/
theorem bufAppend_phase_cases (s : State) (x : Byte) :
    (s.bufAppend x).phase = Phase.compress ∨ (s.bufAppend x).phase = s.phase := by
  rw [bufAppend_phase]
  exact ite_eq_or_eq _ _ _

/-- A command leaves PHASE, enters FAULT with a code of 1 to 3, or opens a hash (INIT) or leaves ABSORB for the sequencer. -/
theorem CommandResult.phase_cases {i : Instr} {s t : State} (h : CommandResult s i t) :
    t.phase = s.phase ∨ (Decodes s.phase ∧ ∃ c : Cause, t.phase = Phase.fault ∧ t.fcode = c.code) ∨
      (i = .init ∧ Decodes s.phase ∧ t.phase = Phase.absorb) ∨
      (s.phase = Phase.absorb ∧ (t.phase = Phase.compress ∨ t.phase = Phase.pad)) := by
  cases h with
  | answers i r => exact .inl rfl
  | faults c hd hinit hstat => exact .inr (.inl ⟨hd, c, rfl, rfl⟩)
  | begins hd r => exact .inr (.inr (.inl ⟨rfl, hd, rfl⟩))
  | appends b hp hl r =>
    rcases bufAppend_phase_cases (s.setLen (s.len.val + 8)) b with hc | hk
    · exact .inr (.inr (.inr ⟨hp, .inl hc⟩))
    · exact .inl hk
  | ends hp r => exact .inr (.inr (.inr ⟨hp, .inr rfl⟩))

theorem MicroResult.busy {i : Instr} {s t : State} (h : MicroResult s i t) :
    s.phase = Phase.compress ∨ s.phase = Phase.pad := by
  cases h with
  | wload hp | wextMore hp | wextLast hp | vinit hp | roundMore hp | roundLast hp | hfold hp => exact .inl hp
  | padByte hi hp | padlenMore hp | padlenLast hp => exact .inr hp

/-- A micro-operation stays with the sequencer, but for HFOLD. -/
theorem MicroResult.phase_cases {i : Instr} {s t : State} (h : MicroResult s i t) :
    (t.phase = Phase.compress ∨ t.phase = Phase.pad) ∨
      (s.phase = Phase.compress ∧ s.stage.val = Stage.hfold ∧ t.phase = phaseAfterFold s.fin.val s.ps.val) := by
  cases h with
  | wload | wextLast | vinit | roundLast => exact .inl (.inl rfl)
  | wextMore hp | roundMore hp => exact .inl (.inl hp)
  | hfold hp hst => exact .inr ⟨hp, hst, rfl⟩
  | padByte hi hp | padlenMore hp | padlenLast hp =>
    exact .inl ((bufAppend_phase_cases s _).imp_right fun hk => hk.trans hp)

theorem phaseAfterFold_cases (fin : BitVec 1) (ps : BitVec 2) :
    phaseAfterFold fin ps = Phase.absorb ∨ phaseAfterFold fin ps = Phase.pad ∨
      (phaseAfterFold fin ps = Phase.done ∧ fin = 1 ∧ ps = PadStage.ended) := by
  revert fin ps; decide

/-- FLT does not rise without an accepted word. -/
theorem MicroResult.phase_ne_fault {i : Instr} {s t : State} (h : MicroResult s i t) : t.phase ≠ Phase.fault := by
  rcases h.phase_cases with (hp | hp) | ⟨-, -, hp⟩
  · rw [hp]; decide
  · rw [hp]; decide
  · rcases phaseAfterFold_cases s.fin.val s.ps.val with hf | hf | ⟨hf, -⟩ <;> rw [hp, hf] <;> decide

/-- The HFOLD that ends a hash is the only micro-operation that enters DONE. -/
theorem MicroResult.of_phase_done {i : Instr} {s t : State} (h : MicroResult s i t) (ht : t.phase = Phase.done) :
    s.phase = Phase.compress ∧ s.stage.val = Stage.hfold ∧ s.fin.val = 1 ∧ s.ps.val = PadStage.ended := by
  rcases h.phase_cases with (hp | hp) | ⟨hp, hst, hf⟩
  · exact absurd (hp.symm.trans ht) (by decide)
  · exact absurd (hp.symm.trans ht) (by decide)
  · rcases phaseAfterFold_cases s.fin.val s.ps.val with hc | hc | ⟨-, hfin, hps⟩
    · exact absurd ((hf.trans hc).symm.trans ht) (by decide)
    · exact absurd ((hf.trans hc).symm.trans ht) (by decide)
    · exact ⟨hp, hst, hfin, hps⟩

/-! ### Entering and leaving DONE and FAULT -/

theorem step_enters_done {s t : State} (h : step s = .next t) (hs : s.phase ≠ Phase.done) (ht : t.phase = Phase.done) :
    s.phase = Phase.compress ∧ s.stage.val = Stage.hfold ∧ s.fin.val = 1 ∧ s.ps.val = PadStage.ended := by
  cases step_result h with
  | reset hh l => exact absurd (show Phase.idle = Phase.done from ht) (by decide)
  | illegal ho hp => exact absurd (show Phase.fault = Phase.done from ht) (by decide)
  | rests l r => exact absurd ht hs
  | micro hi => exact hi.of_phase_done ht
  | command ho hd hi =>
    rcases hi.phase_cases with hk | ⟨-, c, hp, -⟩ | ⟨-, -, hp⟩ | ⟨-, hp | hp⟩
    · exact absurd (hk.symm.trans ht) hs
    all_goals exact absurd (hp.symm.trans ht) (by decide)

theorem step_leaves_done {s t : State} (h : step s = .next t) (hs : s.phase = Phase.done) (ht : t.phase ≠ Phase.done) :
    (∃ o rest, s.host = ⟨true, o⟩ :: rest) ∨
      ∃ c rest, Offers s c rest ∧ (decodeCmd c = .ok .init ∨ t.phase = Phase.fault) := by
  cases step_result h with
  | reset hh l => exact .inl ⟨_, _, hh⟩
  | illegal ho hp => exact .inr ⟨_, _, ho, .inr rfl⟩
  | rests l r => exact absurd hs ht
  | micro hi => rcases hi.busy with hp | hp <;> exact absurd (hs.symm.trans hp) (by decide)
  | command ho hd hi =>
    rcases hi.phase_cases with hk | ⟨-, c, hf, -⟩ | ⟨rfl, -⟩ | ⟨hp, -⟩
    · exact absurd (hk.trans hs) ht
    · exact .inr ⟨_, _, ho, .inr hf⟩
    · exact .inr ⟨_, _, ho, .inl hd⟩
    · exact absurd (hs.symm.trans hp) (by decide)

theorem step_enters_fault {s t : State} (h : step s = .next t) (hs : s.phase ≠ Phase.fault) (ht : t.phase = Phase.fault) :
    (∃ c rest, Offers s c rest) ∧ Decodes s.phase ∧ 1 ≤ t.fcode ∧ t.fcode ≤ 3 := by
  cases step_result h with
  | reset hh l => exact absurd (show Phase.idle = Phase.fault from ht) (by decide)
  | illegal ho hp => exact ⟨⟨_, _, ho⟩, hp, Cause.one_le_code .illegalCmd, Cause.code_le .illegalCmd⟩
  | rests l r => exact absurd ht hs
  | micro hi => exact absurd ht hi.phase_ne_fault
  | command ho hd hi =>
    rcases hi.phase_cases with hk | ⟨hd, c, -, hc⟩ | ⟨-, -, hp⟩ | ⟨-, hp | hp⟩
    · exact absurd (hk.symm.trans ht) hs
    · exact ⟨⟨_, _, ho⟩, hd, hc ▸ c.one_le_code, hc ▸ c.code_le⟩
    all_goals exact absurd (hp.symm.trans ht) (by decide)

theorem step_leaves_fault {s t : State} (h : step s = .next t) (hs : s.phase = Phase.fault) (ht : t.phase ≠ Phase.fault) :
    ∃ o rest, s.host = ⟨true, o⟩ :: rest := by
  cases step_result h with
  | reset hh l => exact ⟨_, _, hh⟩
  | illegal ho hp => exact absurd hs hp.ready.2.2
  | rests l r => exact absurd hs ht
  | micro hi => rcases hi.busy with hp | hp <;> exact absurd (hs.symm.trans hp) (by decide)
  | command ho hd hi =>
    rcases hi.phase_cases with hk | ⟨hp, -⟩ | ⟨-, hp, -⟩ | ⟨hp, -⟩
    · exact absurd (hk.trans hs) ht
    · exact absurd hs hp.ready.2.2
    · exact absurd hs hp.ready.2.2
    · exact absurd (hs.symm.trans hp) (by decide)

/-- Settles O54: the flags are views of PHASE, so each clause is about entering or leaving DONE or FAULT. -/
theorem flagsRiseOnlyWhereStated : Obligations.FlagsRiseOnlyWhereStated := by
  intro s t h
  simp only [State.dv_eq_one_iff, State.dv_eq_zero_iff, State.flt_eq_one_iff, State.flt_eq_zero_iff]
  exact ⟨trivial, trivial, step_enters_done h, step_leaves_done h, step_enters_fault h, step_leaves_fault h⟩

end Sys2Proof.Machine
end

section
/-! PROOFS, no step reads a register that holds NOVALUE (10_state R42): agreement of two states goes through every operation,
and under the invariant every register that a step reads has been written (R45 items 2, 4 and 5). -/

namespace Sys2Proof.Machine

/-! ### Agreement goes through every register write -/

theorem Reg.Agree.refl {n : Nat} (x : Reg n) : x.Agree x := ⟨rfl, fun _ => rfl⟩

theorem Reg.Agree.val_eq {n : Nat} {x y : Reg n} (h : x.Agree y) (hw : x.written = true) : x.val = y.val := h.2 hw

theorem Agree.refl (s : State) : Agree s s where
  h _ := .refl _
  v _ := .refl _
  w _ := .refl _
  b _ := .refl _
  len := .refl _
  fill := rfl
  phase := rfl
  stage := .refl _
  tIndex := .refl _
  fin := .refl _
  ps := .refl _
  lk := .refl _
  fcode := rfl
  host := rfl
  rsp := rfl

/-- Two register files that agree still do after the same write to both. -/
theorem agree_set {n m k : Nat} {x y : Vector (Reg n) m} (h : ∀ i : Fin m, x[i].Agree y[i]) (hk : k < m) (r : Reg n)
    (i : Fin m) : (x.set k r hk)[i].Agree (y.set k r hk)[i] := by
  simp only [Fin.getElem_fin, Vector.getElem_set]
  split
  · exact .refl r
  · exact h i

section
variable {s t : State} (a : Agree s t)
include a

theorem Agree.setH {f g : Vector (Reg 32) 8} (h : ∀ i : Fin 8, f[i].Agree g[i]) : Agree (s.setH f) (t.setH g) :=
  { a with h := h }
theorem Agree.setV {f g : Vector (Reg 32) 8} (h : ∀ i : Fin 8, f[i].Agree g[i]) : Agree (s.setV f) (t.setV g) :=
  { a with v := h }
theorem Agree.setW {f g : Vector (Reg 32) 64} (h : ∀ i : Fin 64, f[i].Agree g[i]) : Agree (s.setW f) (t.setW g) :=
  { a with w := h }
theorem Agree.setB {f g : Vector (Reg 8) 64} (h : ∀ i : Fin 64, f[i].Agree g[i]) : Agree (s.setB f) (t.setB g) :=
  { a with b := h }
theorem Agree.setLen (x : BitVec 64) : Agree (s.setLen x) (t.setLen x) := { a with len := .refl _ }
theorem Agree.setFill (x : BitVec 6) : Agree (s.setFill x) (t.setFill x) := { a with fill := rfl }
theorem Agree.setPhase (x : BitVec 3) : Agree (s.setPhase x) (t.setPhase x) := { a with phase := rfl }
theorem Agree.setStage (x : BitVec 3) : Agree (s.setStage x) (t.setStage x) := { a with stage := .refl _ }
theorem Agree.setT (x : BitVec 6) : Agree (s.setT x) (t.setT x) := { a with tIndex := .refl _ }
theorem Agree.setFin (x : BitVec 1) : Agree (s.setFin x) (t.setFin x) := { a with fin := .refl _ }
theorem Agree.setPs (x : BitVec 2) : Agree (s.setPs x) (t.setPs x) := { a with ps := .refl _ }
theorem Agree.setLk (x : BitVec 3) : Agree (s.setLk x) (t.setLk x) := { a with lk := .refl _ }
theorem Agree.setFcode (x : BitVec 4) : Agree (s.setFcode x) (t.setFcode x) := { a with fcode := rfl }
theorem Agree.setHost (x : List HostInput) : Agree (s.setHost x) (t.setHost x) := { a with host := rfl }
theorem Agree.setRsp {x y : Option Word} (h : x = y) : Agree (s.setRsp x) (t.setRsp y) := { a with rsp := h }

theorem Agree.seq (p st : BitVec 3) (x : BitVec 6) : Agree (s.seq p st x) (t.seq p st x) :=
  ((a.setPhase p).setStage st).setT x

theorem Agree.silent : Agree s.silent t.silent := a.setRsp rfl

theorem Agree.respondStatus : Agree s.respondStatus t.respondStatus :=
  a.setRsp (congrArg some (State.status_congr a.phase a.fcode a.fill))

theorem Agree.raise (c : Cause) : Agree (s.raise c) (t.raise c) :=
  ((a.setPhase _).setFcode _).respondStatus

theorem Agree.bufAppend (x : Byte) : Agree (s.bufAppend x) (t.bufAppend x) := by
  have hset : Agree (s.writeByte s.fill x) (t.writeByte t.fill x) := by
    rw [← a.fill]
    exact a.setB (agree_set a.b s.fill.isLt _)
  by_cases h63 : s.fill = 63
  · rw [bufAppend_full h63, bufAppend_full (a.fill ▸ h63)]
    exact (hset.setFill 0).seq ..
  · rw [bufAppend_room h63, bufAppend_room (a.fill ▸ h63), ← a.fill]
    exact (a.fill.symm ▸ hset).setFill _

/-! ### Reading registers that have been written -/

theorem Agree.hWord_eq (hw : ∀ i : Fin 8, s.h[i].written = true) (i : BitVec 3) : s.hWord i = t.hWord i :=
  (a.h ⟨i.toNat, i.isLt⟩).val_eq (hw _)

theorem Agree.vWord_eq (hw : ∀ i : Fin 8, s.v[i].written = true) (i : BitVec 3) : s.vWord i = t.vWord i :=
  (a.v ⟨i.toNat, i.isLt⟩).val_eq (hw _)

theorem Agree.wWord_eq {i : BitVec 6} (hw : s.w[i.toNat].written = true) : s.wWord i = t.wWord i :=
  (a.w ⟨i.toNat, i.isLt⟩).val_eq hw

theorem Agree.blockWord_eq (hw : ∀ i : Fin 64, s.b[i].written = true) (i : BitVec 4) : s.blockWord i = t.blockWord i := by
  have byte (k : BitVec 6) : s.bByte k = t.bByte k := (a.b ⟨k.toNat, k.isLt⟩).val_eq (hw _)
  simp only [State.blockWord, byte]

theorem Agree.dig_eq (hw : ∀ i : Fin 8, s.h[i].written = true) (i : BitVec 5) : s.dig i = t.dig i := by
  rw [State.dig, State.dig, a.hWord_eq hw]

theorem Agree.hex_eq (hw : ∀ i : Fin 8, s.h[i].written = true) (j : BitVec 6) : s.hex j = t.hex j := by
  simp only [State.hex, State.hexNibble, a.dig_eq hw]

end

/-! ### Commands -/

theorem command_busy {adm : BitVec 3 → Bool} {body : State → State} {s : State} (hb : seqBusy s.phase = true) :
    command adm body s = .next s.silent := by
  have hf : s.phase ≠ Phase.fault := by rcases compress_or_pad_of_seqBusy hb with h | h <;> rw [h] <;> decide
  rw [command, if_neg hf, if_pos hb]

/-- The phase check reads PHASE alone, so a command agrees with itself where its own effect does. -/
theorem Agree.command {adm : BitVec 3 → Bool} {body : State → State} {s t s' : State} (a : Agree s t)
    (hbody : Decodes s.phase → adm s.phase = true → Agree (body s) (body t)) (h : command adm body s = .next s') :
    ∃ t', command adm body t = .next t' ∧ Agree s' t' := by
  rcases command_cases h with ⟨hf, rfl⟩ | ⟨hb, rfl⟩ | ⟨hd, hadm, rfl⟩ | ⟨hd, hadm, rfl⟩
  · exact ⟨_, command_fault (a.phase ▸ hf), a.respondStatus⟩
  · exact ⟨_, command_busy (a.phase ▸ hb), a.silent⟩
  · exact ⟨_, command_admitted (a.phase ▸ hd) (a.phase ▸ hadm), hbody hd hadm⟩
  · exact ⟨_, command_wrongPhase (a.phase ▸ hd) (a.phase ▸ hadm), a.raise _⟩

theorem Agree.exec_cmd {i : Instr} (hi : i.format = .cmd) {s t s' : State} (hs : CoreInv s) (a : Agree s t)
    (h : exec i s = .next s') : ∃ t', exec i t = .next t' ∧ Agree s' t' := by
  have written (hp : s.phase = Phase.absorb ∨ s.phase = Phase.done) : HashOpen s := by
    rcases hp with hp | hp <;> exact hs.hashOpen hp
  cases i with
  | wload | wext | vinit | round | hfold | pad80 | pad00 | padlen => cases hi
  | init =>
    simp only [exec, execInit] at h ⊢
    refine a.command (fun _ _ => ?_) h
    exact (((((((a.setH fun _ => .refl _).setLen _).setFill _).setFin _).setPs _).setLk _).seq ..).respondStatus
  | absorb b =>
    simp only [exec, execAbsorb] at h ⊢
    refine a.command (fun _ hadm => ?_) h
    have hlen := a.len.val_eq (written (.inl (by simpa using hadm))).len
    rw [← hlen]
    split
    · exact a.raise _
    · exact ((a.setLen _).bufAppend b).respondStatus
  | final =>
    simp only [exec, execFinal] at h ⊢
    exact a.command (fun _ _ => ((((a.setFin _).setPs _).setLk _).setPhase _).respondStatus) h
  | rdstat =>
    simp only [exec, execRdstat] at h ⊢
    exact a.command (fun _ _ => a.respondStatus) h
  | rdh k =>
    simp only [exec, execRdh] at h ⊢
    refine a.command (fun _ hadm => a.setRsp ?_) h
    rw [a.hWord_eq (written (by simpa using hadm)).h]
  | rddig k =>
    simp only [exec, execRddig] at h ⊢
    refine a.command (fun _ hadm => a.setRsp ?_) h
    rw [a.dig_eq (written (.inr (by simpa using hadm))).h]
  | rdhex j =>
    simp only [exec, execRdhex] at h ⊢
    refine a.command (fun _ hadm => a.setRsp ?_) h
    rw [a.hex_eq (written (.inr (by simpa using hadm))).h]

/-! ### Micro-operations -/

theorem Agree.loadedWords {s t : State} (a : Agree s t) (hb : ∀ i : Fin 64, s.b[i].written = true) (i : Fin 64) :
    (loadedWords s)[i].Agree (loadedWords t)[i] := by
  simp only [Fin.getElem_fin, Vector.getElem_ofFn]
  split
  · rw [a.blockWord_eq hb]
    exact .refl _
  · exact a.w i

/-- The schedule words that WEXT reads lie below the one it writes (41_compressor R151). -/
theorem Agree.nextScheduleWord_eq {s t : State} (a : Agree s t) (ht : s.t.val = t.t.val) (h16 : 16 ≤ s.t.val)
    (hw : ∀ i : Fin 64, i.val < s.t.val.toNat → s.w[i].written = true) : nextScheduleWord s = nextScheduleWord t := by
  have word {x : BitVec 6} (hx : x.toNat < s.t.val.toNat) : s.wWord x = t.wWord x :=
    a.wWord_eq (hw ⟨x.toNat, x.isLt⟩ hx)
  unfold nextScheduleWord
  rw [← ht, word (x := s.t.val - 2) (by bv_omega), word (x := s.t.val - 7) (by bv_omega),
    word (x := s.t.val - 15) (by bv_omega), word (x := s.t.val - 16) (by bv_omega)]

theorem Agree.extendedWords {s t : State} (a : Agree s t) (ht : s.t.val = t.t.val) (h16 : 16 ≤ s.t.val)
    (hw : ∀ i : Fin 64, i.val < s.t.val.toNat → s.w[i].written = true) :
    Agree (s.writeSchedule s.t.val (nextScheduleWord s)) (t.writeSchedule t.t.val (nextScheduleWord t)) := by
  rw [← a.nextScheduleWord_eq ht h16 hw, ← ht]
  exact a.setW (agree_set a.w s.t.val.isLt _)

theorem Agree.turnedVars_eq {s t : State} (a : Agree s t) (ht : s.t.val = t.t.val)
    (hw : ∀ i : Fin 64, s.w[i].written = true) (hv : ∀ i : Fin 8, s.v[i].written = true) :
    turnedVars s = turnedVars t := by
  have word : s.wWord s.t.val = t.wWord s.t.val := a.wWord_eq (hw ⟨s.t.val.toNat, s.t.val.isLt⟩)
  simp only [turnedVars, roundVars, a.vWord_eq hv, ← ht, word]

theorem Agree.copiedVars_eq {s t : State} (a : Agree s t) (hh : ∀ i : Fin 8, s.h[i].written = true) :
    copiedVars s = copiedVars t :=
  congrArg Vector.ofFn (funext fun i => congrArg Reg.wrote ((a.h i).val_eq (hh i)))

theorem Agree.foldedState_eq {s t : State} (a : Agree s t) (hh : ∀ i : Fin 8, s.h[i].written = true)
    (hv : ∀ i : Fin 8, s.v[i].written = true) : foldedState s = foldedState t :=
  congrArg Vector.ofFn (funext fun i =>
    congrArg Reg.wrote (congrArg₂ (· + ·) ((a.h i).val_eq (hh i)) ((a.v i).val_eq (hv i))))

/-- Every register that the selected micro-operation reads has been written. -/
theorem Agree.exec_seq {i : Instr} {s t s' : State} (hs : CoreInv s) (a : Agree s t) (hd : decodeSel s.sw = .ok i)
    (h : exec i s = .next s') : ∃ t', exec i t = .next t' ∧ Agree s' t' := by
  have hi := exec_microResult hd h
  have ho : HashOpen s := by
    rcases hi.busy with hp | hp <;> exact hs.hashOpen hp
  have ht := a.tIndex.val_eq ho.t
  have hlk := a.lk.val_eq ho.lk
  cases hi with
  | wload hp hst => exact ⟨_, exec_wload t, ((a.setW (a.loadedWords (hs.buffer_full hp).1)).seq ..).silent⟩
  | wextMore hp hst h16 h63 =>
    obtain ⟨-, hw⟩ := hs.wext_ready hp hst
    exact ⟨_, exec_wext_more (ht ▸ h16) (ht ▸ h63), ht ▸ ((a.extendedWords ht h16 hw).setT (s.t.val + 1)).silent⟩
  | wextLast hp hst h63 =>
    obtain ⟨h16, hw⟩ := hs.wext_ready hp hst
    exact ⟨_, exec_wext_last (ht ▸ h63), ((a.extendedWords ht h16 hw).seq ..).silent⟩
  | vinit hp hst =>
    rw [a.copiedVars_eq ho.h]
    exact ⟨_, exec_vinit t, ((a.setV fun _ => .refl _).seq ..).silent⟩
  | roundMore hp hst h63 =>
    have hvars := a.turnedVars_eq ht (hs.schedule_ready hp (by rw [hst]; decide)) (hs.vars_ready hp (by rw [hst]; decide))
    rw [hvars, ht]
    exact ⟨_, exec_round_more (ht ▸ h63), ((a.setV fun _ => .refl _).setT _).silent⟩
  | roundLast hp hst h63 =>
    have hvars := a.turnedVars_eq ht (hs.schedule_ready hp (by rw [hst]; decide)) (hs.vars_ready hp (by rw [hst]; decide))
    rw [hvars]
    exact ⟨_, exec_round_last (ht ▸ h63), ((a.setV fun _ => .refl _).seq ..).silent⟩
  | hfold hp hst =>
    rw [a.foldedState_eq ho.h (hs.vars_ready hp (by rw [hst]; decide)), a.fin.val_eq ho.fin, a.ps.val_eq ho.ps]
    exact ⟨_, exec_hfold t, ((a.setH fun _ => .refl _).seq ..).silent⟩
  | padByte hi hp hps =>
    rcases hi with ⟨rfl, rfl⟩ | ⟨rfl, rfl⟩
    · exact ⟨_, exec_pad80 t, a.fill ▸ ((a.bufAppend _).setPs _).silent⟩
    · exact ⟨_, exec_pad00 t, a.fill ▸ ((a.bufAppend _).setPs _).silent⟩
  | padlenMore hp hps h7 =>
    rw [a.len.val_eq ho.len, hlk]
    exact ⟨_, exec_padlen_more (hlk ▸ h7), ((a.bufAppend _).setLk _).silent⟩
  | padlenLast hp hps h7 =>
    rw [a.len.val_eq ho.len, hlk]
    exact ⟨_, exec_padlen_last (hlk ▸ h7), ((a.bufAppend _).setPs _).silent⟩

/-! ### Steps -/

theorem Agree.acceptStep {c : CmdWord} {s t s' : State} (hs : CoreInv s) (a : Agree s t)
    (h : acceptStep c s = .next s') : ∃ t', acceptStep c t = .next t' ∧ Agree s' t' := by
  unfold Machine.acceptStep
  rw [← a.phase]
  rcases acceptStep_cases h with ⟨hf, rfl⟩ | ⟨hf, i, hd, he⟩ | ⟨hf, ⟨e, hd⟩, rfl⟩
  · rw [if_pos hf]
    exact ⟨_, rfl, a.respondStatus⟩
  · rw [if_neg hf, hd]
    exact a.exec_cmd (decodeCmd_format hd) hs he
  · rw [if_neg hf, hd]
    exact ⟨_, rfl, a.raise _⟩

theorem Agree.quietStep {s t s' : State} (hs : CoreInv s) (a : Agree s t) (h : quietStep s = .next s') :
    ∃ t', quietStep t = .next t' ∧ Agree s' t' := by
  rcases quietStep_cases h with ⟨hb, i, hd, he⟩ | ⟨-, hr, rfl⟩
  · have hopen : HashOpen s := by
      rcases compress_or_pad_of_seqBusy hb with hp | hp <;>
        exact hs.hashOpen hp
    have hsw : s.sw = t.sw := by
      rw [State.sw, State.sw, a.phase, a.stage.val_eq hopen.stage, a.ps.val_eq hopen.ps]
    rw [quietStep_busy (a.phase ▸ hb) (hsw ▸ hd)]
    exact a.exec_seq hs hd he
  · exact ⟨_, quietStep_ready (a.phase ▸ hr), a.silent⟩

/-- Settles O51, by what the host does now. -/
theorem noValueIsNeverRead : Obligations.NoValueIsNeverRead := by
  intro s t s' hs a h
  by_cases hn : NoResetNow s
  · have hn' : NoResetNow t := by unfold NoResetNow at hn ⊢; rwa [← a.host]
    by_cases ho : cmdReady s.phase = true ∧ ∃ c rest, Offers s c rest
    · obtain ⟨hr, c, rest, ho⟩ := ho
      have ho' : Offers t c rest := by unfold Offers at ho ⊢; rwa [← a.host]
      rw [step_of_accepted ho hr] at h
      rw [step_of_accepted ho' (a.phase ▸ hr)]
      exact (a.setHost rest).acceptStep (hs.setHost rest) h
    · rw [step_of_quiet hn ho] at h
      have ho' : ¬ (cmdReady t.phase = true ∧ ∃ c rest, Offers t c rest) := by
        unfold Offers at ho ⊢; rwa [← a.host, ← a.phase]
      rw [step_of_quiet hn' ho', ← a.host]
      exact (a.setHost _).quietStep (hs.setHost _) h
  · obtain ⟨o, rest, hh⟩ := not_noResetNow_iff.1 hn
    rw [step_of_reset hh] at h
    rw [step_of_reset (a.host ▸ hh), ← a.host]
    cases h
    exact ⟨_, rfl, .refl _⟩

end Sys2Proof.Machine
end

section
/-! PROOFS, the read commands (20_memory R72), and what a command answers in a phase that does not admit it (60_exceptions
R212). -/

namespace Sys2Proof.Machine

theorem format_of_reads {i : Instr} (hi : reads i = true) : i.format = .cmd := by
  cases i with
  | rdstat | rdh | rddig | rdhex => rfl
  | init | absorb | final | wload | wext | vinit | round | hfold | pad80 | pad00 | padlen => cases hi

/-- A command where it is not admitted enters FAULT with BAD_PHASE (R212). -/
theorem exec_wrongPhase {i : Instr} (hi : i.format = .cmd) {s : State} (hd : Decodes s.phase)
    (ha : admits i s.phase = false) : exec i s = .next (s.raise .badPhase) := by
  cases i with
  | wload | wext | vinit | round | hfold | pad80 | pad00 | padlen => cases hi
  | init | rdstat => cases ha
  | absorb | final | rdh | rddig | rdhex =>
    simp only [exec, execAbsorb, execFinal, execRdh, execRddig, execRdhex]
    exact command_wrongPhase hd ha

/-- A read answers one word, whatever the response before it, and writes the response alone. -/
theorem exec_read {i : Instr} (hi : reads i = true) {s : State} (hd : Decodes s.phase) (ha : admits i s.phase = true) :
    ∃ w, ∀ r, exec i (s.setRsp r) = .next (s.respond w) := by
  cases i with
  | init | absorb | final | wload | wext | vinit | round | hfold | pad80 | pad00 | padlen => cases hi
  | rdstat => exact ⟨s.status, fun r => exec_rdstat (s := s.setRsp r) hd.ready.1⟩
  | rdh k => exact ⟨s.hWord k, fun r => exec_rdh (s := s.setRsp r) k (by simpa [admits] using ha)⟩
  | rddig k => exact ⟨(s.dig k).setWidth 32, fun r => exec_rddig (s := s.setRsp r) k (by simpa [admits] using ha)⟩
  | rdhex j => exact ⟨(s.hex j).setWidth 32, fun r => exec_rdhex (s := s.setRsp r) j (by simpa [admits] using ha)⟩

/-- Settles O23: the first read changes the response alone, and the second does not look at it. -/
theorem readsHaveNoSideEffects : Obligations.ReadsHaveNoSideEffects := by
  intro i s hi hd
  refine ⟨fun ha => ?_, fun ha => ?_⟩
  · obtain ⟨w, hw⟩ := exec_read hi hd ha
    exact ⟨s.respond w, hw s.rsp, by simp [keepsBut_iff], hw (some w)⟩
  · exact ⟨s.raise .badPhase, exec_wrongPhase (format_of_reads hi) hd ha, rfl⟩

end Sys2Proof.Machine
end

section
/-! PROOFS, the opcode maps (30_encoding R95 to R97): a row selects the words with its fixed bits, the rows of a map are
disjoint, so a word decodes by whichever row selects it, and the encoder is the decoder's inverse. -/

namespace Sys2Proof

/-! ### Words as fields one beside the other -/

theorem extractLsb'_append_self {m k : Nat} (c : BitVec (m + k)) : c.extractLsb' k m ++ c.extractLsb' 0 k = c := by
  rw [BitVec.extractLsb'_append_extractLsb'_eq_extractLsb' (Nat.zero_add k).symm, BitVec.extractLsb'_eq_self]

theorem append_eq_append_iff {m k : Nat} {x x' : BitVec m} {y y' : BitVec k} :
    x ++ y = x' ++ y' ↔ x = x' ∧ y = y' := by
  refine ⟨fun h => ⟨?_, ?_⟩, fun ⟨hx, hy⟩ => hx ▸ hy ▸ rfl⟩
  · simpa only [BitVec.extractLsb'_append_eq_left] using congrArg (BitVec.extractLsb' k m) h
  · simpa only [BitVec.extractLsb'_append_eq_right] using congrArg (BitVec.extractLsb' 0 k) h

/-! ### Which words a row selects -/

theorem Row.selects_iff {n : Nat} {r : Row n} {c : BitVec n} :
    r.selects c = true ↔ c &&& r.mask = r.bits := beq_iff_eq

/-- A row that fixes every bit selects its own word alone. -/
theorem Row.eq_of_selects {n : Nat} {r : Row n} (hm : r.mask = BitVec.allOnes n) {c : BitVec n}
    (h : r.selects c = true) : c = r.bits := by
  rwa [selects_iff, hm, BitVec.and_allOnes] at h

/-- A row that fixes all but its low `k` bits selects the words that begin with the bits it fixes. -/
theorem Row.selects_iff_append {m k : Nat} {r : Row (m + k)} {pre : BitVec m} (hm : r.mask = BitVec.allOnes m ++ 0#k)
    (hb : r.bits = pre ++ 0#k) {c : BitVec (m + k)} : r.selects c = true ↔ pre ++ c.extractLsb' 0 k = c := by
  have hc : c &&& r.mask = c.extractLsb' k m ++ 0#k := by
    conv_lhs => rw [hm, ← extractLsb'_append_self c, BitVec.and_append, BitVec.and_allOnes, BitVec.and_zero]
  conv_rhs => rhs; rw [← extractLsb'_append_self c]
  rw [selects_iff, hc, hb, append_eq_append_iff, append_eq_append_iff]
  exact ⟨fun h => ⟨h.1.symm, rfl⟩, fun h => ⟨h.1.symm, rfl⟩⟩

theorem Row.selects_append {m k : Nat} {r : Row (m + k)} {pre : BitVec m} (hm : r.mask = BitVec.allOnes m ++ 0#k)
    (hb : r.bits = pre ++ 0#k) (x : BitVec k) : r.selects (pre ++ x) = true :=
  (selects_iff_append hm hb).2 (by rw [BitVec.extractLsb'_append_eq_right])

/-! ### The rows of a map are disjoint -/

/-- Two rows that fix some bit, which both of them look at, to different values. -/
def Row.Clash {n : Nat} (r q : Row n) : Prop := r.bits &&& q.mask ≠ q.bits &&& r.mask

theorem Row.Clash.not_selects {n : Nat} {r q : Row n} (h : r.Clash q) {c : BitVec n} (hr : r.selects c = true) :
    q.selects c ≠ true := by
  intro hq
  rw [selects_iff] at hr hq
  refine h ?_
  rw [← hr, ← hq, BitVec.and_assoc, BitVec.and_assoc, BitVec.and_comm r.mask]

theorem cmdRows_clash : cmdRows.Pairwise Row.Clash := by unfold Row.Clash; decide

theorem selRows_clash : selRows.Pairwise Row.Clash := by unfold Row.Clash; decide

/-- Of rows that clash pairwise a word selects one at most. -/
theorem length_filter_selects_le_one {n : Nat} {rows : List (Row n)} (h : rows.Pairwise Row.Clash) (c : BitVec n) :
    (rows.filter fun r => r.selects c).length ≤ 1 := by
  have hp := h.filter fun r => r.selects c
  have hs : ∀ r ∈ rows.filter fun r => r.selects c, r.selects c = true := fun r hr => (List.mem_filter.1 hr).2
  generalize rows.filter (fun r => r.selects c) = l at hp hs ⊢
  rcases l with _ | ⟨r, _ | ⟨q, l⟩⟩
  · exact Nat.zero_le 1
  · exact Nat.le_refl 1
  · have hrq : r.Clash q := List.rel_of_pairwise_cons hp List.mem_cons_self
    exact absurd (hs q (by simp)) (hrq.not_selects (hs r (by simp)))

/-- Settles O43: in each map every two rows clash. -/
theorem rowsAreDisjoint : Obligations.RowsAreDisjoint :=
  ⟨length_filter_selects_le_one cmdRows_clash, length_filter_selects_le_one selRows_clash⟩

/-- Of rows that clash pairwise the search finds the one that selects the word, wherever it stands. -/
theorem find_selects {n : Nat} {rows : List (Row n)} (h : rows.Pairwise Row.Clash) {r : Row n} (hr : r ∈ rows)
    {c : BitVec n} (hc : r.selects c = true) : rows.find? (fun q => q.selects c) = some r := by
  induction rows with
  | nil => cases hr
  | cons q rows ih =>
    obtain ⟨hq, hrows⟩ := List.pairwise_cons.1 h
    rcases List.mem_cons.1 hr with rfl | hr
    · exact List.find?_cons_of_pos hc
    · have hqc : ¬ q.selects c = true := fun hqc => (hq r hr).not_selects hqc hc
      exact (List.find?_cons_of_neg (p := fun q : Row n => q.selects c) hqc).trans (ih hrows hr)

/-! ### A command word decodes by the row that selects it -/

theorem decodeCmd_of_selects {r : Row 16} (hr : r ∈ cmdRows) {c : CmdWord} (hc : r.selects c = true) :
    decodeCmd c = .ok (r.build c) := by
  rw [decodeCmd, find_selects cmdRows_clash hr hc]

theorem decodeCmd_eq_ok_iff {c : CmdWord} {i : Instr} :
    decodeCmd c = .ok i ↔ ∃ r ∈ cmdRows, r.selects c = true ∧ r.build c = i := by
  constructor
  · intro h
    unfold decodeCmd at h
    split at h
    · rename_i r hf
      exact ⟨r, List.mem_of_find?_eq_some hf, by simpa using List.find?_some hf, Except.ok.inj h⟩
    · cases h
  · rintro ⟨r, hr, hc, rfl⟩
    exact decodeCmd_of_selects hr hc

theorem decodeCmd_absorb (b : Byte) : decodeCmd (0x20#8 ++ b) = .ok (.absorb b) := by
  rw [decodeCmd_of_selects (r := cmdRows[1]) (List.getElem_mem _) (Row.selects_append (m := 8) (k := 8) rfl rfl b)]
  exact congrArg (fun x => Except.ok (Instr.absorb x)) BitVec.extractLsb'_append_eq_right

theorem decodeCmd_rdh (i : BitVec 3) : decodeCmd (0x0a00#13 ++ i) = .ok (.rdh i) := by
  rw [decodeCmd_of_selects (r := cmdRows[4]) (List.getElem_mem _) (Row.selects_append (m := 13) (k := 3) rfl rfl i)]
  exact congrArg (fun x => Except.ok (Instr.rdh x)) BitVec.extractLsb'_append_eq_right

theorem decodeCmd_rddig (i : BitVec 5) : decodeCmd (0x300#11 ++ i) = .ok (.rddig i) := by
  rw [decodeCmd_of_selects (r := cmdRows[5]) (List.getElem_mem _) (Row.selects_append (m := 11) (k := 5) rfl rfl i)]
  exact congrArg (fun x => Except.ok (Instr.rddig x)) BitVec.extractLsb'_append_eq_right

theorem decodeCmd_rdhex (j : BitVec 6) : decodeCmd (0x1c0#10 ++ j) = .ok (.rdhex j) := by
  rw [decodeCmd_of_selects (r := cmdRows[6]) (List.getElem_mem _) (Row.selects_append (m := 10) (k := 6) rfl rfl j)]
  exact congrArg (fun x => Except.ok (Instr.rdhex x)) BitVec.extractLsb'_append_eq_right

theorem decode_encode (i : Instr) : decode (encode i) = .ok i := by
  cases i with
  | absorb b => exact decodeCmd_absorb b
  | rdh i => exact decodeCmd_rdh i
  | rddig i => exact decodeCmd_rddig i
  | rdhex j => exact decodeCmd_rdhex j
  | init | final | rdstat | wload | wext | vinit | round | hfold | pad80 | pad00 | padlen => rfl

theorem decodeCmd_of_encode {i : Instr} {c : CmdWord} (h : encode i = .cmd c) : decodeCmd c = .ok i := by
  have hd := decode_encode i
  rwa [h] at hd

theorem decodeSel_of_encode {i : Instr} {sw : SelWord} (h : encode i = .sel sw) : decodeSel sw = .ok i := by
  have hd := decode_encode i
  rwa [h] at hd

/-- Settles O40: the word of an instruction selects that instruction's row, and its low bits are the operand. -/
theorem decodeInvertsEncode : Obligations.DecodeInvertsEncode := fun i => ⟨decode_encode i, by cases i <;> rfl⟩

/-- What a row reads from a word it selects is encoded as that word. -/
theorem encode_build {r : Row 16} (hr : r ∈ cmdRows) {c : CmdWord} (hc : r.selects c = true) :
    encode (r.build c) = .cmd c := by
  simp only [cmdRows, List.mem_cons, List.not_mem_nil, or_false] at hr
  rcases hr with rfl | rfl | rfl | rfl | rfl | rfl | rfl
  · exact congrArg Encoded.cmd (Row.eq_of_selects rfl hc).symm
  · exact congrArg Encoded.cmd ((Row.selects_iff_append (m := 8) (k := 8) rfl rfl).1 hc)
  · exact congrArg Encoded.cmd (Row.eq_of_selects rfl hc).symm
  · exact congrArg Encoded.cmd (Row.eq_of_selects rfl hc).symm
  · exact congrArg Encoded.cmd ((Row.selects_iff_append (m := 13) (k := 3) rfl rfl).1 hc)
  · exact congrArg Encoded.cmd ((Row.selects_iff_append (m := 11) (k := 5) rfl rfl).1 hc)
  · exact congrArg Encoded.cmd ((Row.selects_iff_append (m := 10) (k := 6) rfl rfl).1 hc)

/-- Settles O41: a word that decodes is selected by a row, which fixes all of it but the operand. -/
theorem encodeInvertsDecodeCmd : Obligations.EncodeInvertsDecodeCmd := by
  intro c i h
  obtain ⟨r, hr, hc, rfl⟩ := decodeCmd_eq_ok_iff.1 h
  exact encode_build hr hc

/-! ### The legal words (R97) -/

/-- Every row of the command map fixes `op`, a zero `z`, and some of the bits of `x` to zero. -/
theorem Row.selects_fields_iff {r : Row 16} {op : BitVec 4} {xm : BitVec 8} (hm : r.mask = 0xf#4 ++ 0xf#4 ++ xm)
    (hb : r.bits = op ++ 0#4 ++ 0#8) {c : CmdWord} : r.selects c = true ↔
      c.extractLsb' 8 4 = 0 ∧ c.extractLsb' 12 4 = op ∧ c.extractLsb' 0 8 &&& xm = 0 := by
  have hc : c = c.extractLsb' 12 4 ++ c.extractLsb' 8 4 ++ c.extractLsb' 0 8 := by
    rw [BitVec.extractLsb'_append_extractLsb'_eq_extractLsb' (by rfl)]
    exact (extractLsb'_append_self (m := 8) (k := 8) c).symm
  have hand : c &&& r.mask = c.extractLsb' 12 4 ++ c.extractLsb' 8 4 ++ (c.extractLsb' 0 8 &&& xm) := by
    conv_lhs => rw [hm, hc, BitVec.and_append, BitVec.and_append]
    rw [show 0xf#4 = BitVec.allOnes 4 from rfl, BitVec.and_allOnes, BitVec.and_allOnes]
  rw [selects_iff, hand, hb, append_eq_append_iff, append_eq_append_iff, and_assoc, and_left_comm]
  rfl

/-- The bits of `x` that a row fixes to zero, said by its mask and said as R97 says it: the bits above the operand. -/
theorem and_mask_eq_zero_iff (x : BitVec 8) :
    (x &&& 0x00 = 0) ∧ (x &&& 0xff = 0 ↔ x = 0) ∧ (x &&& 0xf8 = 0 ↔ x.extractLsb' 3 5 = 0) ∧
      (x &&& 0xe0 = 0 ↔ x.extractLsb' 5 3 = 0) ∧ (x &&& 0xc0 = 0 ↔ x.extractLsb' 6 2 = 0) := by
  revert x; decide

theorem legal_iff_exists_row (c : CmdWord) : legal c = true ↔ ∃ r ∈ cmdRows, r.selects c = true := by
  obtain ⟨h00, hff, hf8, he0, hc0⟩ := and_mask_eq_zero_iff (c.extractLsb' 0 8)
  simp only [cmdRows, List.mem_cons, List.not_mem_nil, or_false, exists_eq_or_imp, exists_eq_left]
  rw [Row.selects_fields_iff (op := 1) (xm := 0xff) rfl rfl, Row.selects_fields_iff (op := 2) (xm := 0x00) rfl rfl,
    Row.selects_fields_iff (op := 3) (xm := 0xff) rfl rfl, Row.selects_fields_iff (op := 4) (xm := 0xff) rfl rfl,
    Row.selects_fields_iff (op := 5) (xm := 0xf8) rfl rfl, Row.selects_fields_iff (op := 6) (xm := 0xe0) rfl rfl,
    Row.selects_fields_iff (op := 7) (xm := 0xc0) rfl rfl, hff, hf8, he0, hc0]
  simp only [legal, h00, and_true, Bool.and_eq_true, Bool.or_eq_true, beq_iff_eq, or_assoc, ← and_or_left]

theorem legal_iff_decodeCmd_ok (c : CmdWord) : legal c = true ↔ ∃ i, decodeCmd c = .ok i := by
  rw [legal_iff_exists_row]
  constructor
  · rintro ⟨r, hr, hc⟩
    exact ⟨_, decodeCmd_of_selects hr hc⟩
  · rintro ⟨i, hi⟩
    obtain ⟨r, hr, hc, -⟩ := decodeCmd_eq_ok_iff.1 hi
    exact ⟨r, hr, hc⟩

/-- What every legal word has: one of the opcodes 1 to 7, and a zero `z`. -/
theorem fields_of_legal {c : CmdWord} (h : legal c = true) :
    c.extractLsb' 12 4 ≠ 0 ∧ ¬ 8 ≤ c.extractLsb' 12 4 ∧ c.extractLsb' 8 4 = 0 := by
  simp only [legal, Bool.and_eq_true, Bool.or_eq_true, beq_iff_eq] at h
  obtain ⟨hz, hop⟩ := h
  generalize c.extractLsb' 12 4 = op at hop ⊢
  have hrange : op = 1 ∨ op = 2 ∨ op = 3 ∨ op = 4 ∨ op = 5 ∨ op = 6 ∨ op = 7 := by tauto
  clear hop
  exact ⟨by revert op; decide, by revert op; decide, hz⟩

/-- Settles O42: R97's formula is the rows of the command map, field by field, and none of them has the opcodes or the
non-zero `z` of the named illegal words. -/
theorem legalIsDecodable : Obligations.LegalIsDecodable := by
  intro c
  refine ⟨legal_iff_decodeCmd_ok c, fun hbad => Bool.eq_false_iff.2 fun hl => ?_⟩
  obtain ⟨h0, h8, hz⟩ := fields_of_legal hl
  rcases hbad with h | h | h
  · exact h0 h
  · exact h8 h
  · exact h hz

/-! ### Single words -/

/-- In COMPRESS a row does not look at the pad stage, and in PAD not at the stage (R96, R92). -/
theorem decodeSel_ignores (st : BitVec 3) (q : BitVec 2) :
    (st ≤ 4 → decodeSel (2#3 ++ st ++ q) = decodeSel (2#3 ++ st ++ 0#2)) ∧
      (q ≤ 2 → decodeSel (3#3 ++ st ++ q) = decodeSel (3#3 ++ 0#3 ++ q)) := by
  revert st q; decide

/-- Settles O44: with the ignored bits at zero the selector words are the encodings of the eight micro-operations. -/
theorem selectorIgnoresOtherBits : Obligations.SelectorIgnoresOtherBits := by
  have stage : ∀ {i : Instr} {st : BitVec 3}, encode i = .sel (2#3 ++ st ++ 0#2) → st ≤ 4 → ∀ q : BitVec 2,
      decodeSel (2#3 ++ st ++ q) = .ok i :=
    fun hi hst q => ((decodeSel_ignores _ q).1 hst).trans (decodeSel_of_encode hi)
  have padStage : ∀ {i : Instr} {q : BitVec 2}, encode i = .sel (3#3 ++ 0#3 ++ q) → q ≤ 2 → ∀ st : BitVec 3,
      decodeSel (3#3 ++ st ++ q) = .ok i :=
    fun hi hq st => ((decodeSel_ignores st _).2 hq).trans (decodeSel_of_encode hi)
  constructor
  · intro q
    exact ⟨stage (i := .wload) rfl (by decide) q, stage (i := .wext) rfl (by decide) q,
      stage (i := .vinit) rfl (by decide) q, stage (i := .round) rfl (by decide) q,
      stage (i := .hfold) rfl (by decide) q⟩
  · intro st
    exact ⟨padStage (i := .pad80) rfl (by decide) st, padStage (i := .pad00) rfl (by decide) st,
      padStage (i := .padlen) rfl (by decide) st⟩

/-- Settles O45: each word is the encoding of its command; the two illegal ones have opcode 0 and opcode 15. -/
theorem sampleWordsDecode : Obligations.SampleWordsDecode :=
  ⟨decode_encode .init, decode_encode (.absorb 0x61), decode_encode .final, decode_encode .rdstat, decode_encode (.rdh 7),
    decode_encode (.rddig 31), decode_encode (.rdhex 63), (legalIsDecodable 0x0000).2 (.inl rfl),
    (legalIsDecodable 0xffff).2 (.inr (.inl (by decide)))⟩

end Sys2Proof
end

section
/-! PROOFS, who moves next (30_encoding R96, R99, R100): the step is the command offered, or the micro-operation selected, or
there is none. -/

namespace Sys2Proof.Machine

theorem acceptStep_of_decodes {c : CmdWord} {i : Instr} {s : State} (hf : s.phase ≠ Phase.fault)
    (hi : decodeCmd c = .ok i) : acceptStep c s = exec i s := by
  rw [acceptStep, if_neg hf, hi]

/-- Settles O4: in these phases the port is ready and decodes the word. -/
theorem stepRunsOfferedCommand : Obligations.StepRunsOfferedCommand := by
  intro s c rest i ho hd hi
  obtain ⟨hready, -, hfault⟩ := hd.ready
  exact (step_of_accepted ho hready).trans (acceptStep_of_decodes hfault hi)

theorem cmdReady_eq_false_of_seqBusy {p : BitVec 3} (h : seqBusy p = true) : cmdReady p = false := by
  revert p; decide

/-- Where the port accepts no word in its phase, a step without reset is one in which it accepts nothing. -/
theorem step_of_not_ready {s : State} (hn : NoResetNow s) (hr : cmdReady s.phase = false) :
    step s = quietStep (s.setHost (passed s.host)) :=
  step_of_quiet hn fun h => by simp [hr] at h

/-- Settles O5: a busy port accepts nothing, and the host's list goes on as `passed` says. -/
theorem stepRunsSelectedMicroOperation : Obligations.StepRunsSelectedMicroOperation := by
  intro s i hb hn hi
  have hstep : step s = exec i (s.setHost (passed s.host)) :=
    (step_of_not_ready hn (cmdReady_eq_false_of_seqBusy hb)).trans (quietStep_busy hb hi)
  rw [hstep]
  rcases s.host with _ | ⟨⟨r, _ | ⟨c, _ | ⟨r', later⟩⟩⟩, rest⟩ <;> rfl

/-- A stage above HFOLD, and the pad stage after the last, have no row (R99). -/
theorem seqStep_stuck {s : State}
    (h : (s.phase = Phase.compress ∧ 5 ≤ s.stage.val) ∨ (s.phase = Phase.pad ∧ s.ps.val = PadStage.ended)) :
    seqStep s = .fault (.noMicroOperation s.sw) := by
  unfold seqStep
  split
  · rename_i i hi
    rcases decodeSel_cases hi with h' | h' | h' | h' | h' | h' | h' | h' <;> obtain ⟨hp, hx, -⟩ := h' <;>
      simp [hp, hx] at h
  · rfl

/-- Settles O10: the port accepts nothing in these phases, and the sequencer finds no row or is not there. -/
theorem unmatchedSelectorIsStuck : Obligations.UnmatchedSelectorIsStuck := by
  intro s hn
  refine ⟨fun hb h => ?_, fun h => ?_⟩
  · rw [step_of_not_ready hn (cmdReady_eq_false_of_seqBusy hb), quietStep, State.setHost_phase, if_pos hb]
    exact seqStep_stuck (s := s.setHost _) h
  · have hnobody : ∀ p : BitVec 3, 6 ≤ p → cmdReady p = false ∧ seqBusy p = false := by decide
    obtain ⟨hr, hb⟩ := hnobody _ h
    rw [step_of_not_ready hn hr, quietStep, State.setHost_phase, hb, hr]
    rfl

end Sys2Proof.Machine
end

section
/-! PROOFS, the assembler (30_encoding R101, R102): the word of a line is the encoding of its command, and a
pseudo-instruction is the list of its commands. -/

namespace Sys2Proof.Machine

theorem assemble_of_wellFormed {l : Line} (h : l.wellFormed = true) : assemble l = expand l := if_pos h

theorem assemble_of_not_wellFormed {l : Line} (h : l.wellFormed = false) : assemble l = .error .operandRange := by
  rw [assemble, h]
  rfl

/-! ### The words of R101 are the encoder's -/

/-- An operand put into the zero bits below an opcode stands beside it. -/
theorem append_zero_or_setWidth {m k : Nat} (pre : BitVec m) (x : BitVec k) :
    (pre ++ 0#k) ||| x.setWidth (m + k) = pre ++ x := by
  have hx : x.setWidth (m + k) = 0#m ++ x := by
    rw [BitVec.setWidth_eq_append (Nat.le_add_left k m)]
    ext
    simp
  rw [hx, BitVec.or_append, BitVec.or_zero, BitVec.zero_or]

theorem encode_absorb (b : Byte) : encode (.absorb b) = .cmd (wordAbsorb b) :=
  congrArg Encoded.cmd (append_zero_or_setWidth 0x20#8 b).symm

theorem encode_rdh (i : BitVec 3) : encode (.rdh i) = .cmd (wordRdh i.toNat) := by
  rw [wordRdh, BitVec.ofNat_toNat]
  exact congrArg Encoded.cmd (append_zero_or_setWidth 0x0a00#13 i).symm

theorem encode_rddig (i : BitVec 5) : encode (.rddig i) = .cmd (wordRddig i.toNat) := by
  rw [wordRddig, BitVec.ofNat_toNat]
  exact congrArg Encoded.cmd (append_zero_or_setWidth 0x300#11 i).symm

theorem encode_rdhex (j : BitVec 6) : encode (.rdhex j) = .cmd (wordRdhex j.toNat) := by
  rw [wordRdhex, BitVec.ofNat_toNat]
  exact congrArg Encoded.cmd (append_zero_or_setWidth 0x1c0#10 j).symm

/-! ### Lines of one word -/

theorem assemble_absorb (b : Byte) : assemble (.absorb b.toNat) = .ok [offer (wordAbsorb b)] := by
  rw [assemble_of_wellFormed (l := .absorb b.toNat) (decide_eq_true b.isLt), expand, BitVec.ofNat_toNat,
    BitVec.setWidth_eq]

theorem assemble_word (w : CmdWord) : assemble (.word w.toNat) = .ok [offer w] := by
  rw [assemble_of_wellFormed (l := .word w.toNat) (decide_eq_true w.isLt), expand, BitVec.ofNat_toNat,
    BitVec.setWidth_eq]

/-- Settles O47: a word that is a command's encoding decodes to it, and out of range no line is well formed. -/
theorem assembledWordsDecode : Obligations.AssembledWordsDecode := by
  refine ⟨⟨rfl, decode_encode .init⟩, ⟨rfl, decode_encode .final⟩, ⟨rfl, decode_encode .rdstat⟩, rfl, assemble_word,
    fun b => ⟨assemble_absorb b, decodeCmd_of_encode (encode_absorb b)⟩,
    fun i => ⟨assemble_of_wellFormed (decide_eq_true i.isLt), decodeCmd_of_encode (encode_rdh i)⟩,
    fun i => ⟨assemble_of_wellFormed (decide_eq_true i.isLt), decodeCmd_of_encode (encode_rddig i)⟩,
    fun j => ⟨assemble_of_wellFormed (decide_eq_true j.isLt), decodeCmd_of_encode (encode_rdhex j)⟩, ?_⟩
  exact ⟨fun n hn => assemble_of_not_wellFormed (decide_eq_false hn.not_gt),
    fun n hn => assemble_of_not_wellFormed (decide_eq_false hn.not_gt),
    fun n hn => assemble_of_not_wellFormed (decide_eq_false hn.not_gt),
    fun n hn => assemble_of_not_wellFormed (decide_eq_false hn.not_gt),
    fun n hn => assemble_of_not_wellFormed (decide_eq_false hn.not_gt)⟩

/-! ### The pseudo-instructions (R102) -/

/-- Byte `r` of a 32-bit value, by division. -/
theorem wordByte_ofNat {w : Nat} (hw : w < 2 ^ 32) (r : BitVec 2) :
    wordByte (BitVec.ofNat 32 w) r = BitVec.ofNat 8 (w / 2 ^ (24 - 8 * r.toNat)) := by
  apply BitVec.eq_of_toNat_eq
  rw [wordByte, BitVec.extractLsb'_toNat, BitVec.toNat_ofNat, BitVec.toNat_ofNat, Nat.mod_eq_of_lt hw,
    Nat.shiftRight_eq_div_pow]

theorem assemble_absorbw {w : Nat} (hw : w < 2 ^ 32) : assemble (.absorbw w) = .ok
    [offer (wordAbsorb (BitVec.ofNat 8 (w / 2 ^ 24))), offer (wordAbsorb (BitVec.ofNat 8 (w / 2 ^ 16))),
      offer (wordAbsorb (BitVec.ofNat 8 (w / 2 ^ 8))), offer (wordAbsorb (BitVec.ofNat 8 w))] := by
  rw [assemble_of_wellFormed (l := .absorbw w) (decide_eq_true hw), expand]
  simp [absorbAll, wordByte_ofNat hw, List.range_succ]

theorem assemble_hash {m : List Byte} (hm : m.length ≤ Config.maxMsgBytes) :
    assemble (.hash (some m)) = .ok (hashInputs m ++ readHex) := by
  rw [assemble_of_wellFormed rfl, expand, hashCommands_short hm]

/-- A list made index by index holds at each index what was made there. -/
theorem map_range_spec (n : Nat) (f : Nat → HostInput) :
    ((List.range n).map f).length = n ∧ ∀ i, i < n → ((List.range n).map f)[i]? = some (f i) :=
  ⟨by rw [List.length_map, List.length_range], fun i hi => by rw [List.getElem?_map, List.getElem?_range hi]; rfl⟩

/-- Settles O46: each expansion is a list of offers made byte by byte or index by index. -/
theorem pseudoInstructionsExpand : Obligations.PseudoInstructionsExpand :=
  ⟨fun _ => assemble_absorbw, fun _ hw => assemble_of_not_wellFormed (decide_eq_false hw.not_gt), rfl,
    fun m => ⟨absorbAll m, rfl, List.length_map .., fun _ => List.getElem?_map ..⟩, ⟨_, rfl, map_range_spec 8 _⟩,
    ⟨_, rfl, map_range_spec 32 _⟩, ⟨_, rfl, map_range_spec 64 _⟩, fun _ => assemble_hash⟩

end Sys2Proof.Machine
end

section
/-! PROOFS, which micro-operation PHASE, STAGE and PS select (30_encoding R96), one lemma a micro-operation. -/

namespace Sys2Proof.Machine

variable {s : State}

theorem decodeSel_wload (hp : s.phase = Phase.compress) (hst : s.stage.val = Stage.wload) :
    decodeSel s.sw = .ok .wload := by
  obtain ⟨hselect, -⟩ := decodeSel_sw s
  exact hselect hp hst

theorem decodeSel_wext (hp : s.phase = Phase.compress) (hst : s.stage.val = Stage.wext) :
    decodeSel s.sw = .ok .wext := by
  obtain ⟨-, hselect, -⟩ := decodeSel_sw s
  exact hselect hp hst

theorem decodeSel_vinit (hp : s.phase = Phase.compress) (hst : s.stage.val = Stage.vinit) :
    decodeSel s.sw = .ok .vinit := by
  obtain ⟨-, -, hselect, -⟩ := decodeSel_sw s
  exact hselect hp hst

theorem decodeSel_round (hp : s.phase = Phase.compress) (hst : s.stage.val = Stage.round) :
    decodeSel s.sw = .ok .round := by
  obtain ⟨-, -, -, hselect, -⟩ := decodeSel_sw s
  exact hselect hp hst

theorem decodeSel_hfold (hp : s.phase = Phase.compress) (hst : s.stage.val = Stage.hfold) :
    decodeSel s.sw = .ok .hfold := by
  obtain ⟨-, -, -, -, hselect, -⟩ := decodeSel_sw s
  exact hselect hp hst

theorem decodeSel_pad80 (hp : s.phase = Phase.pad) (hps : s.ps.val = PadStage.mark) :
    decodeSel s.sw = .ok .pad80 := by
  obtain ⟨-, -, -, -, -, hselect, -⟩ := decodeSel_sw s
  exact hselect hp hps

theorem decodeSel_pad00 (hp : s.phase = Phase.pad) (hps : s.ps.val = PadStage.zero) :
    decodeSel s.sw = .ok .pad00 := by
  obtain ⟨-, -, -, -, -, -, hselect, -⟩ := decodeSel_sw s
  exact hselect hp hps

theorem decodeSel_padlen (hp : s.phase = Phase.pad) (hps : s.ps.val = PadStage.length) :
    decodeSel s.sw = .ok .padlen := by
  obtain ⟨-, -, -, -, -, -, -, hselect⟩ := decodeSel_sw s
  exact hselect hp hps

end Sys2Proof.Machine
end

section
/-! PROOFS, the padding engine's instructions (40_padder R123 to R128): each that brings a byte appends it at FILL, so what
an append is and what it leaves alone is said once. -/

namespace Sys2Proof.Machine

/-- `t` comes from `s` by an append of the byte `x` (R123), the registers aside that the byte path does not write. -/
structure Appended (x : Byte) (s t : State) : Prop where
  b : t.b = s.b.set s.fill.toNat (Reg.wrote x) s.fill.isLt
  fill : t.fill = s.fill + 1
  next : if s.fill = 63 then t.phase = Phase.compress ∧ t.stage = Reg.wrote 0 ∧ t.t = Reg.wrote 0
    else t.phase = s.phase ∧ t.stage = s.stage ∧ t.t = s.t

theorem appended_bufAppend (s : State) (x : Byte) : Appended x s (s.bufAppend x) where
  b := bufAppend_b s x
  fill := bufAppend_fill s x
  next := by
    rw [bufAppend_phase, bufAppend_stage, bufAppend_t]
    split <;> exact ⟨rfl, rfl, rfl⟩

section
variable {x : Byte} {s t : State}

theorem Appended.setPs (h : Appended x s t) (q : BitVec 2) : Appended x s (t.setPs q) := { h with }

theorem Appended.setLk (h : Appended x s t) (k : BitVec 3) : Appended x s (t.setLk k) := { h with }

theorem Appended.setRsp (h : Appended x s t) (r : Option Word) : Appended x s (t.setRsp r) := { h with }

/-- The byte path does not look at LEN. -/
theorem Appended.of_setLen {len : BitVec 64} (h : Appended x (s.setLen len) t) : Appended x s t := { h with }

theorem Appended.bByte_eq (h : Appended x s t) : t.bByte s.fill = x := by
  simp [State.bByte, h.b]

theorem Appended.keepsBytes (h : Appended x s t) : KeepsBytesBut s.fill s t := by
  intro k hk
  rw [h.b, Fin.getElem_fin, Vector.getElem_set_ne _ _ hk.symm, Fin.getElem_fin]

theorem Appended.toNat_fill (h : Appended x s t) : t.fill.toNat = (s.fill.toNat + 1) % 64 := by
  rw [h.fill, BitVec.toNat_add]
  rfl

end

theorem State.respondStatus_rsp (s : State) : s.respondStatus.rsp = some s.respondStatus.status :=
  congrArg some (State.status_congr rfl rfl rfl)

/-! ### ABSORB and FINAL -/

/-- ABSORB below the last length is an append, and LEN counts eight bits more (R124). -/
theorem exec_absorb_appends {s : State} (b : Byte) (hp : s.phase = Phase.absorb) (hl : s.len.val ≠ lastLen) :
    exec (.absorb b) s = .next ((s.setLen (s.len.val + 8)).bufAppend b).respondStatus := by
  rw [exec_absorb b hp, if_neg hl]

theorem appended_absorb (s : State) (len : BitVec 64) (b : Byte) :
    Appended b s ((s.setLen len).bufAppend b).respondStatus :=
  ((appended_bufAppend (s.setLen len) b).setRsp _).of_setLen

/-- Settles O13: it is an append, and the byte that fills the block starts the compression. -/
theorem absorbAppendsByte : Obligations.AbsorbAppendsByte := by
  intro b s hp hl
  have ha := appended_absorb s (s.len.val + 8) b
  refine ⟨_, exec_absorb_appends b hp hl, by simp, ha.bByte_eq, ha.keepsBytes, ?_, State.respondStatus_rsp _,
    by simp [keepsBut_iff]⟩
  have hfill := ha.fill
  have hnext := ha.next
  by_cases h63 : s.fill = 63
  · rw [if_pos h63] at hnext ⊢
    exact ⟨by rw [hfill, h63]; rfl, hnext⟩
  · rw [if_neg h63] at hnext ⊢
    obtain ⟨hphase, hstage, ht⟩ := hnext
    exact ⟨by rw [hfill, toNat_fill_add_one h63], hphase.trans hp, hstage, ht⟩

/-- Settles O15. -/
theorem finalStartsPadder : Obligations.FinalStartsPadder := fun s hp =>
  ⟨_, exec_final hp, rfl, rfl, rfl, rfl, State.respondStatus_rsp _, by simp [keepsBut_iff]⟩

/-! ### The padder's micro-operations -/

/-- What PAD80 and PAD00 share (R126, R127): the append of their byte, and the pad stage by the new fill level. -/
theorem padByte_spec (s : State) (x : Byte) :
    let t := ((s.bufAppend x).setPs (padStageAt (s.fill + 1))).silent
    t.bByte s.fill = x ∧ KeepsBytesBut s.fill s t ∧ t.fill.toNat = (s.fill.toNat + 1) % 64 ∧
      t.ps = Reg.wrote (if t.fill = 56 then 2 else 1) ∧
      (if s.fill = 63 then t.phase = Phase.compress ∧ t.stage = Reg.wrote 0 ∧ t.t = Reg.wrote 0
        else t.phase = s.phase ∧ t.stage = s.stage ∧ t.t = s.t) ∧
      t.rsp = none ∧ KeepsBut [.b, .fill, .ps, .phase, .stage, .t] s t := by
  have ha := ((appended_bufAppend s x).setPs (padStageAt (s.fill + 1))).setRsp none
  exact ⟨ha.bByte_eq, ha.keepsBytes, ha.toNat_fill, by rw [State.silent_eq, ha.fill]; rfl, ha.next, rfl,
    by simp [keepsBut_iff]⟩

/-- Settles O25. -/
theorem pad80AppendsMarker : Obligations.Pad80AppendsMarker := fun s =>
  ⟨decodeSel_pad80, _, exec_pad80 s, padByte_spec s 0x80⟩

/-- Settles O26. -/
theorem pad00AppendsZero : Obligations.Pad00AppendsZero := fun s =>
  ⟨decodeSel_pad00, _, exec_pad00 s, padByte_spec s 0x00⟩

/-- Byte `k` of LEN, by division (R128, 20_memory R65). -/
theorem toNat_lengthByte (len : BitVec 64) (k : BitVec 3) :
    (lengthByte len k).toNat = len.toNat / 2 ^ (56 - 8 * k.toNat) % 256 := by
  rw [lengthByte, BitVec.extractLsb'_toNat, Nat.shiftRight_eq_div_pow]

/-- Settles O27: PADLEN is an append, and LK = 7 ends the length field. -/
theorem padlenAppendsLengthByte : Obligations.PadlenAppendsLengthByte := by
  intro s
  refine ⟨decodeSel_padlen, ?_⟩
  have ha := appended_bufAppend s (lengthByte s.len.val s.lk.val)
  have hbyte := toNat_lengthByte s.len.val s.lk.val
  by_cases h7 : s.lk.val = 7
  · have ha' := (ha.setPs PadStage.ended).setRsp none
    refine ⟨_, exec_padlen_last h7, by rw [State.silent_eq, ha'.bByte_eq, hbyte], ha'.keepsBytes, ha'.toNat_fill, ?_,
      ha'.next, rfl, by simp [keepsBut_iff]⟩
    rw [if_pos h7]
    exact ⟨rfl, bufAppend_lk s _⟩
  · have ha' := (ha.setLk (s.lk.val + 1)).setRsp none
    refine ⟨_, exec_padlen_more h7, by rw [State.silent_eq, ha'.bByte_eq, hbyte], ha'.keepsBytes, ha'.toNat_fill, ?_,
      ha'.next, rfl, by simp [keepsBut_iff]⟩
    rw [if_neg h7]
    exact ⟨bufAppend_ps s _, rfl⟩

end Sys2Proof.Machine
end

section
/-! PROOFS, the padding function (40_padder R121, R122): how long `Pad(M)` is, and which byte stands where. -/

namespace Sys2Proof.Machine

/-! ### How many zero bytes and how many blocks -/

theorem zeroCount_lt (n : Nat) : zeroCount n < 64 := Nat.mod_lt _ (by decide)

theorem mod_of_zeroCount (n : Nat) : (n + 1 + zeroCount n) % 64 = 56 := by
  unfold zeroCount; omega

theorem zeroCount_le {n z : Nat} (h : (n + 1 + z) % 64 = 56) : zeroCount n ≤ z := by
  unfold zeroCount; omega

theorem blockCount_eq (n : Nat) : blockCount n = (n + 8) / 64 + 1 := by
  unfold blockCount; omega

theorem padded_length_eq (n : Nat) : n + 1 + zeroCount n + 8 = 64 * blockCount n := by
  rw [blockCount_eq]; unfold zeroCount; omega

/-! ### The bytes of `Pad(M)` -/

/-- `Pad(M)` read from the left: the message, then what the padder appends. -/
theorem pad_eq (m : List Byte) :
    pad m = m ++ 0x80 :: (List.replicate (zeroCount m.length) 0x00 ++ lengthField (BitVec.ofNat 64 (8 * m.length))) := by
  simp [pad]

@[simp] theorem length_lengthField (len : BitVec 64) : (lengthField len).length = 8 := by simp [lengthField]

theorem length_pad (m : List Byte) : (pad m).length = m.length + 1 + zeroCount m.length + 8 := by
  simp [pad]; omega

/-- Byte `k` of the length field of a length that fits in LEN, by division. -/
theorem lengthByte_ofNat {len : Nat} (h : len < 2 ^ 64) (k : BitVec 3) :
    lengthByte (BitVec.ofNat 64 len) k = BitVec.ofNat 8 (len / 2 ^ (56 - 8 * k.toNat)) := by
  apply BitVec.eq_of_toNat_eq
  rw [toNat_lengthByte, BitVec.toNat_ofNat, BitVec.toNat_ofNat, Nat.mod_eq_of_lt h]

theorem lengthField_getElem? {len : Nat} (h : len < 2 ^ 64) {i : Nat} (hi : i < 8) :
    (lengthField (BitVec.ofNat 64 len))[i]? = some (BitVec.ofNat 8 (len / 2 ^ (56 - 8 * i))) := by
  rw [lengthField, List.getElem?_map, List.getElem?_range hi, Option.map_some, lengthByte_ofNat h, BitVec.toNat_ofNat,
    Nat.mod_eq_of_lt hi]

theorem pad_getElem?_marker (m : List Byte) : (pad m)[m.length]? = some 0x80 := by
  simp [pad_eq]

theorem pad_getElem?_zero (m : List Byte) {k : Nat} (hk : k < zeroCount m.length) :
    (pad m)[m.length + 1 + k]? = some 0x00 := by
  rw [pad_eq, Nat.add_assoc, Nat.add_comm 1, List.getElem?_append_right (by omega), Nat.add_sub_cancel_left,
    List.getElem?_cons_succ, List.getElem?_append_left (by simpa using hk), List.getElem?_replicate, if_pos hk]

theorem pad_getElem?_length (m : List Byte) (i : Nat) : (pad m)[m.length + 1 + zeroCount m.length + i]? =
    (lengthField (BitVec.ofNat 64 (8 * m.length)))[i]? := by
  rw [pad, List.getElem?_append_right (by simp; omega)]
  congr 1
  simp
  omega

theorem bitLength_lt {n : Nat} (h : n ≤ Config.maxMsgBytes) : 8 * n < 2 ^ 64 := by
  unfold Config.maxMsgBytes at h; omega

/-- Settles O39, part by part of `Pad(M)`. -/
theorem paddedLength : Obligations.PaddedLength := by
  refine ⟨fun m => ⟨length_pad m, (length_pad m).trans (padded_length_eq _), by simp [pad_eq], pad_getElem?_marker m,
    fun _ hk => pad_getElem?_zero m hk, fun hm => ⟨bitLength_lt hm, fun i hi => ?_⟩⟩,
    fun n => ⟨zeroCount_lt n, mod_of_zeroCount n, fun _ => zeroCount_le, blockCount_eq n⟩⟩
  rw [pad_getElem?_length, lengthField_getElem? (bitLength_lt hm) hi]

end Sys2Proof.Machine
end

section
/-! PROOFS, runs of the sequencer while the host waits: a run with what holds of every state before its end. -/

namespace Sys2Proof.Machine

/-- `n` steps lead from `s` to `t`, and every state before `t` on the way satisfies `P`. -/
structure RunsWithin (P : State → Prop) (n : Nat) (s t : State) : Prop where
  ends : steps n s = .next t
  before : ∀ k, k < n → ∃ u, steps k s = .next u ∧ P u

section
variable {P Q : State → Prop} {m n : Nat} {s t u : State}

theorem RunsWithin.refl (P : State → Prop) (s : State) : RunsWithin P 0 s s := ⟨rfl, fun _ hk => absurd hk (by omega)⟩

theorem RunsWithin.single (hP : P s) (h : step s = .next t) : RunsWithin P 1 s t where
  ends := steps_succ h 0
  before k hk := ⟨s, by rw [Nat.lt_one_iff.1 hk, steps_zero], hP⟩

theorem RunsWithin.trans (h : RunsWithin P m s t) (h' : RunsWithin P n t u) : RunsWithin P (m + n) s u where
  ends := (steps_add h.ends n).trans h'.ends
  before k hk := by
    by_cases hm : k < m
    · exact h.before k hm
    · obtain ⟨v, hv, hPv⟩ := h'.before (k - m) (by omega)
      refine ⟨v, ?_, hPv⟩
      rw [← hv, ← steps_add h.ends, Nat.add_sub_cancel' (Nat.le_of_not_lt hm)]

theorem RunsWithin.mono (h : RunsWithin P n s t) (hPQ : ∀ u, P u → Q u) : RunsWithin Q n s t where
  ends := h.ends
  before k hk := by
    obtain ⟨u, hu, hPu⟩ := h.before k hk
    exact ⟨u, hu, hPQ u hPu⟩

end

/-- Whether the host waits is a matter of what it still does. -/
theorem HostWaits.of_host_eq {s t : State} (hw : HostWaits s) (h : t.host = s.host) : HostWaits t := by
  unfold HostWaits; rw [h]; exact hw

section
variable {l : List RegName} {s t : State} (hk : KeepsBut l s t)
include hk

theorem KeepsBut.h_eq (hr : .h ∉ l := by decide) : t.h = s.h := hk.1 .h hr
theorem KeepsBut.len_eq (hr : .len ∉ l := by decide) : t.len = s.len := hk.1 .len hr
theorem KeepsBut.fill_eq (hr : .fill ∉ l := by decide) : t.fill = s.fill := hk.1 .fill hr
theorem KeepsBut.phase_eq (hr : .phase ∉ l := by decide) : t.phase = s.phase := hk.1 .phase hr
theorem KeepsBut.fin_eq (hr : .fin ∉ l := by decide) : t.fin = s.fin := hk.1 .fin hr
theorem KeepsBut.ps_eq (hr : .ps ∉ l := by decide) : t.ps = s.ps := hk.1 .ps hr
theorem KeepsBut.lk_eq (hr : .lk ∉ l := by decide) : t.lk = s.lk := hk.1 .lk hr
theorem KeepsBut.host_eq : t.host = s.host := hk.2

end

theorem KeepsBut.trans {l : List RegName} {s t u : State} (h : KeepsBut l s t) (h' : KeepsBut l t u) :
    KeepsBut l s u := by
  refine ⟨fun r hr => ?_, h'.2.trans h.2⟩
  have hst := h.1 r hr
  have htu := h'.1 r hr
  cases r <;> exact htu.trans hst

/-- One step of a busy sequencer while the host waits. -/
theorem RunsWithin.microOp {P : State → Prop} {s t : State} {i : Instr} (hP : P s) (hw : HostWaits s)
    (hb : seqBusy s.phase = true) (hd : decodeSel s.sw = .ok i) (he : exec i s = .next t) : RunsWithin P 1 s t :=
  .single hP ((step_waiting hw hb hd).trans he)

end Sys2Proof.Machine
end

section
/-! PROOFS, the compressor (41_compressor R150 to R155): from WLOAD the sequencer computes, micro-operation by
micro-operation, what the contract's `compress` computes on lists. The schedule and the working variables are followed each
by its own loop; every state up to HFOLD is in COMPRESS. -/

namespace Sys2Proof.Machine

/-- The phase is COMPRESS. -/
def Compressing (s : State) : Prop := s.phase = Phase.compress

/-- What the stages before HFOLD may write. -/
abbrev blockRegs : List RegName := [.v, .w, .stage, .t]

theorem Compressing.busy {s : State} (h : Compressing s) : seqBusy s.phase = true := by
  rw [show s.phase = Phase.compress from h]; rfl

theorem KeepsBut.compressing {s t : State} (h : KeepsBut blockRegs s t) (hs : Compressing s) : Compressing t :=
  h.phase_eq.trans hs

theorem Compressing.microOp {s t : State} {i : Instr} (hs : Compressing s) (hw : HostWaits s)
    (hd : decodeSel s.sw = .ok i) (he : exec i s = .next t) : RunsWithin Compressing 1 s t :=
  .microOp hs hw hs.busy hd he

/-! ### The message schedule -/

/-- The first schedule words of `W` are those of the list. -/
def Scheduled (s : State) (l : List Word) : Prop := ∀ i : BitVec 6, i.toNat < l.length → s.wWord i = l.getD i.toNat 0

@[simp] theorem length_firstWords (blk : Block) : (firstWords blk).length = 16 := by simp [firstWords]

theorem length_extendSchedule (n : Nat) (l : List Word) : (extendSchedule n l).length = l.length + n := by
  induction n generalizing l with
  | zero => rfl
  | succ n ih => rw [extendSchedule, ih, List.length_append, List.length_singleton]; omega

theorem length_schedule (blk : Block) : (schedule blk).length = 64 := by
  rw [schedule, length_extendSchedule, length_firstWords]

theorem State.bByte_eq_block (s : State) (i : BitVec 6) : s.bByte i = s.block.toList.getD i.toNat 0 := by
  rw [List.getD_eq_getElem _ _ (by simpa using i.isLt)]
  simp [State.bByte, State.block]

/-- Byte `r` of word `i` of the buffer stands at index `4i + r` (20_memory R64). -/
theorem toNat_append_two (i : BitVec 4) (r : BitVec 2) : (i ++ r).toNat = 4 * i.toNat + r.toNat := by
  rw [BitVec.toNat_append, ← Nat.shiftLeft_add_eq_or_of_lt r.isLt, Nat.shiftLeft_eq]
  omega

theorem firstWords_getD (s : State) (i : BitVec 4) : (firstWords s.block).getD i.toNat 0 = s.blockWord i := by
  rw [firstWords, List.getD_eq_getElem _ _ (by simpa using i.isLt)]
  simp only [List.getElem_map, List.getElem_range, State.blockWord, State.bByte_eq_block, toNat_append_two]
  rfl

theorem scheduled_wload (s : State) : Scheduled (s.setW (loadedWords s)) (firstWords s.block) := by
  intro i hi
  rw [length_firstWords] at hi
  have hword : (s.setW (loadedWords s)).wWord i = s.blockWord (BitVec.ofNat 4 i.toNat) := by
    simp [State.wWord, hi]
  rw [hword, ← firstWords_getD, BitVec.toNat_ofNat, Nat.mod_eq_of_lt hi]

theorem Scheduled.congr {s t : State} {l : List Word} (hl : Scheduled s l) (h : t.w = s.w) : Scheduled t l := by
  intro i hi
  rw [← hl i hi, State.wWord, State.wWord]
  simp only [h]

/-- A word written behind the schedule words so far. -/
theorem Scheduled.write {s t : State} {l : List Word} (hl : Scheduled s l) {i : BitVec 6} (hi : i.toNat = l.length)
    {x : Word} (h : t.w = s.w.set i.toNat (Reg.wrote x) i.isLt) : Scheduled t (l ++ [x]) := by
  intro j hj
  rw [List.length_append, List.length_singleton] at hj
  rw [State.wWord]
  simp only [h]
  by_cases he : i.toNat = j.toNat
  · simp [he, hi ▸ he]
  · rw [Vector.getElem_set_ne _ _ he, List.getD_append _ _ _ _ (by omega)]
    exact hl j (by omega)

/-- The word WEXT derives is the one that extends the list (R151). -/
theorem Scheduled.nextScheduleWord_eq {s : State} {l : List Word} (hl : Scheduled s l) (hT : s.t.val.toNat = l.length)
    (h16 : 16 ≤ l.length) : nextScheduleWord s = extendWord (l.getD (l.length - 2) 0) (l.getD (l.length - 7) 0)
      (l.getD (l.length - 15) 0) (l.getD (l.length - 16) 0) := by
  have back (k : BitVec 6) (h0 : 0 < k.toNat) (hk : k.toNat ≤ 16) :
      s.wWord (s.t.val - k) = l.getD (l.length - k.toNat) 0 := by
    have hsub : (s.t.val - k).toNat = l.length - k.toNat := by
      rw [BitVec.toNat_sub_of_le (BitVec.le_def.2 (by omega)), hT]
    rw [← hsub]
    exact hl _ (by omega)
  rw [nextScheduleWord, back 2 (by decide) (by decide), back 7 (by decide) (by decide), back 15 (by decide) (by decide),
    back 16 (by decide) (by decide)]
  rfl

/-- From WEXT on, the schedule is extended to its 64 words. -/
theorem wext_run (n : Nat) {s : State} {l : List Word} (hs : Compressing s) (hw : HostWaits s)
    (hst : s.stage.val = Stage.wext) (hT : s.t.val.toNat = l.length) (h16 : 16 ≤ l.length) (hn : l.length + n = 63)
    (hl : Scheduled s l) : ∃ t, RunsWithin Compressing (n + 1) s t ∧ t.stage.val = Stage.vinit ∧
      Scheduled t (extendSchedule (n + 1) l) ∧ KeepsBut blockRegs s t := by
  induction n generalizing s l with
  | zero =>
    have hword := hl.nextScheduleWord_eq hT h16
    have h63 : s.t.val = 63 := BitVec.eq_of_toNat_eq (hT.trans hn)
    refine ⟨_, hs.microOp hw (decodeSel_wext hs hst) (exec_wext_last h63), rfl, ?_, by simp [keepsBut_iff, show s.phase = _ from hs]⟩
    rw [extendSchedule, ← hword]
    exact hl.write hT rfl
  | succ n ih =>
    have hword := hl.nextScheduleWord_eq hT h16
    have h63 : s.t.val ≠ 63 := by bv_omega
    have hstep := exec_wext_more (BitVec.le_def.2 (hT ▸ h16)) h63
    have hkeeps : KeepsBut blockRegs s ((s.writeSchedule s.t.val (nextScheduleWord s)).setT (s.t.val + 1)).silent := by
      simp [keepsBut_iff]
    have hs' := hkeeps.compressing hs
    have hl' := hl.write (t := ((s.writeSchedule s.t.val (nextScheduleWord s)).setT (s.t.val + 1)).silent) hT rfl
    have hT' : (s.t.val + 1).toNat = (l ++ [nextScheduleWord s]).length := by
      rw [toNat_fill_add_one h63, hT, List.length_append, List.length_singleton]
    obtain ⟨t, hrun, hstage, hsched, hk⟩ := ih hs' (hw.of_host_eq hkeeps.host_eq) hst hT' (by simp; omega)
      (by simp; omega) hl'
    rw [Nat.add_comm]
    refine ⟨t, (hs.microOp hw (decodeSel_wext hs hst) hstep).trans hrun, hstage, ?_, hkeeps.trans hk⟩
    rw [Nat.add_comm 1, extendSchedule, ← hword]
    exact hsched

/-! ### The rounds -/

/-- The eight working variables as one vector. -/
def State.vWords (s : State) : Vector Word 8 := Vector.ofFn fun i => s.v[i].val

theorem vWords_vinit (s : State) : (s.setV (copiedVars s)).vWords = s.hWords := by
  simp [State.vWords, State.hWords]

theorem vWords_round (s : State) (k w : Word) : (s.setV (roundVars s k w)).vWords = roundOnce s.vWords k w := by
  rfl

theorem roundsFrom_succ (w : List Word) (n : Nat) (x : Vector Word 8) :
    roundsFrom w (n + 1) x = roundOnce (roundsFrom w n x) (kTable.getD n 0) (w.getD n 0) := by
  simp [roundsFrom, List.range_succ]

/-- `t` stands before round `k` of the block that `s` holds, with that block's schedule. -/
structure AtRound (s : State) (k : Nat) (t : State) : Prop where
  keeps : KeepsBut blockRegs s t
  stage : t.stage.val = Stage.round
  index : t.t.val.toNat = k
  sched : Scheduled t (schedule s.block)
  vars : t.vWords = roundsFrom (schedule s.block) k s.hWords

/-- The working variables after round `k` (R153). -/
theorem AtRound.turned {s t : State} {k : Nat} (h : AtRound s k t) :
    (t.setV (turnedVars t)).vWords = roundsFrom (schedule s.block) (k + 1) s.hWords := by
  have hword : t.wWord t.t.val = (schedule s.block).getD k 0 := by
    rw [h.sched _ (by rw [length_schedule]; exact t.t.val.isLt), h.index]
  rw [turnedVars, vWords_round, roundsFrom_succ, h.vars, hword, kAt, h.index]

theorem AtRound.decodes {s t : State} {k : Nat} (hs : Compressing s) (h : AtRound s k t) :
    decodeSel t.sw = .ok .round := decodeSel_round (h.keeps.compressing hs) h.stage

theorem round_run {s u : State} (hs : Compressing s) (hw : HostWaits s) (h : AtRound s 0 u) {k : Nat} (hk : k ≤ 63) :
    ∃ t, RunsWithin Compressing k u t ∧ AtRound s k t := by
  induction k with
  | zero => exact ⟨u, .refl _ u, h⟩
  | succ k ih =>
    obtain ⟨t, hrun, ht⟩ := ih (by omega)
    have hindex := ht.index
    have h63 : t.t.val ≠ 63 := by bv_omega
    refine ⟨_, hrun.trans ((ht.keeps.compressing hs).microOp (hw.of_host_eq ht.keeps.host_eq) (ht.decodes hs)
      (exec_round_more h63)), ht.keeps.trans (by simp [keepsBut_iff]), ht.stage, ?_, ht.sched.congr rfl, ht.turned⟩
    show (t.t.val + 1).toNat = k + 1
    rw [toNat_fill_add_one h63, hindex]

/-! ### A whole block -/

/-- From WLOAD to the first round: the schedule is made and the running state copied (R150 to R152). -/
theorem schedule_run {s : State} (hs : Compressing s) (hst : s.stage.val = Stage.wload) (hw : HostWaits s) :
    ∃ t, RunsWithin Compressing 50 s t ∧ AtRound s 0 t := by
  have hp : s.phase = Phase.compress := hs
  have hload : KeepsBut blockRegs s ((s.setW (loadedWords s)).seq Phase.compress Stage.wext 16).silent := by
    simp [keepsBut_iff, hp]
  obtain ⟨t, hrun, hvinit, hsched, hkeeps⟩ := wext_run 47 (hload.compressing hs) (hw.of_host_eq hload.host_eq) rfl
    (by simp) (by simp) (by simp) ((scheduled_wload s).congr rfl)
  have hk := hload.trans hkeeps
  have hpt : t.phase = Phase.compress := hk.compressing hs
  refine ⟨_, ((hs.microOp hw (decodeSel_wload hs hst) (exec_wload s)).trans hrun).trans
    (Compressing.microOp hpt (hw.of_host_eq hk.host_eq) (decodeSel_vinit hpt hvinit) (exec_vinit t)),
    hk.trans (by simp [keepsBut_iff, hpt]), rfl, rfl, hsched.congr rfl, ?_⟩
  exact (vWords_vinit t).trans (by rw [State.hWords, State.hWords, hk.h_eq]; rfl)

/-- The fold after 64 rounds (R154, R155). -/
theorem hWords_hfold {s t : State} (hh : t.h = s.h) (hv : t.vWords = roundsFrom (schedule s.block) 64 s.hWords) :
    (t.setH (foldedState t)).hWords = compress s.hWords s.block := by
  have hfold : (t.setH (foldedState t)).hWords = Vector.ofFn fun i => s.hWords[i] + t.vWords[i] := by
    simp [State.hWords, State.vWords, hh]
  rw [hfold, hv]
  rfl

/-- From WLOAD, with the host waiting, 115 steps in COMPRESS fold the block in the buffer into the running state, and HFOLD
chooses the phase after it (R155). -/
theorem block_run {s : State} (hs : Compressing s) (hst : s.stage.val = Stage.wload) (hw : HostWaits s) :
    ∃ t, RunsWithin Compressing 115 s t ∧ t.hWords = compress s.hWords s.block ∧
      t.phase = phaseAfterFold s.fin.val s.ps.val ∧ t.rsp = none ∧ KeepsBut [.h, .v, .w, .phase, .stage, .t] s t := by
  obtain ⟨u, hsched, hfirst⟩ := schedule_run hs hst hw
  obtain ⟨v, hrounds, hlast⟩ := round_run hs hw hfirst le_rfl
  have h63 : v.t.val = 63 := BitVec.eq_of_toNat_eq hlast.index
  have hturn : KeepsBut blockRegs v ((v.setV (turnedVars v)).seq Phase.compress Stage.hfold 0).silent := by
    simp [keepsBut_iff, show v.phase = _ from hlast.keeps.compressing hs]
  have hk := hlast.keeps.trans hturn
  have hfold := (hk.compressing hs).microOp (hw.of_host_eq hk.host_eq)
    (decodeSel_hfold (hk.compressing hs) rfl) (exec_hfold _)
  have hround := (hlast.keeps.compressing hs).microOp (hw.of_host_eq hlast.keeps.host_eq) (hlast.decodes hs)
    (exec_round_last h63)
  refine ⟨_, ((hsched.trans hrounds).trans hround).trans hfold, ?_, ?_, rfl, ?_⟩
  · exact hWords_hfold hk.h_eq hlast.turned
  · show phaseAfterFold v.fin.val v.ps.val = _
    rw [hlast.keeps.fin_eq, hlast.keeps.ps_eq]
  · exact (hk.mono (by simp)).trans (by simp [keepsBut_iff])

end Sys2Proof.Machine
end

section
/-! PROOFS, bytes fed into the block buffer (40_padder R123): the buffer and the running state after a sequence of bytes,
whoever brings them. A byte that fills the block costs the 115 steps of its compression. -/

namespace Sys2Proof.Machine

/-! ### The 64-byte slices of a growing byte sequence (20_memory R69) -/

/-- Slice `q` of a byte sequence. -/
def slice (bytes : List Byte) (q : Nat) : Block := Vector.ofFn fun i => bytes.getD (64 * q + i.val) 0

theorem blocks_eq_map_slice (bytes : List Byte) : blocks bytes = (List.range (bytes.length / 64)).map (slice bytes) := rfl

theorem slice_append {p q : List Byte} {k : Nat} (hk : k < p.length / 64) : slice (p ++ q) k = slice p k := by
  unfold slice
  congr 1
  funext i
  exact List.getD_append _ _ _ _ (by omega)

/-- What comes after a byte sequence leaves its full slices as they are. -/
theorem map_slice_append (p q : List Byte) : (List.range (p.length / 64)).map (slice (p ++ q)) = blocks p :=
  List.map_congr_left fun _ hk => slice_append (List.mem_range.1 hk)

/-- A byte that does not end a slice makes no new one. -/
theorem blocks_append_room {p : List Byte} (h : p.length % 64 ≠ 63) (x : Byte) : blocks (p ++ [x]) = blocks p := by
  rw [blocks_eq_map_slice, List.length_append, List.length_singleton,
    show (p.length + 1) / 64 = p.length / 64 by omega, map_slice_append]

/-- A byte that ends a slice makes one new. -/
theorem blocks_append_full {p : List Byte} (h : p.length % 64 = 63) (x : Byte) :
    blocks (p ++ [x]) = blocks p ++ [slice (p ++ [x]) (p.length / 64)] := by
  rw [blocks_eq_map_slice (p ++ [x]), List.length_append, List.length_singleton,
    show (p.length + 1) / 64 = p.length / 64 + 1 by omega, List.range_succ, List.map_append, map_slice_append,
    List.map_singleton]

/-! ### What the registers hold after a sequence of bytes -/

/-- The bytes `p` have been fed from running state `h₀`: the full blocks are folded in, and the bytes of the open block stand
in the buffer below FILL. -/
structure Fed (h₀ : Vector Word 8) (p : List Byte) (s : State) : Prop where
  fill : s.fill.toNat = p.length % 64
  folded : s.hWords = (blocks p).foldl compress h₀
  buffer : ∀ i : BitVec 6, i.toNat < p.length % 64 → s.bByte i = p.getD (64 * (p.length / 64) + i.toNat) 0

theorem Fed.congr {h₀ : Vector Word 8} {p : List Byte} {s t : State} (hs : Fed h₀ p s) (hfill : t.fill = s.fill)
    (hh : t.h = s.h) (hb : t.b = s.b) : Fed h₀ p t where
  fill := by rw [hfill, hs.fill]
  folded := by rw [← hs.folded, State.hWords, State.hWords, hh]
  buffer i hi := by rw [← hs.buffer i hi, State.bByte, State.bByte]; simp only [hb]

/-- The bytes of the open block: those of the buffer below FILL. -/
def State.openBytes (s : State) : List Byte := s.block.toList.take s.fill.toNat

@[simp] theorem length_openBytes (s : State) : s.openBytes.length = s.fill.toNat := by
  simpa [State.openBytes] using s.fill.isLt.le

/-- Whatever a state holds, the bytes of its open block have been fed from its own running state. -/
theorem fed_openBytes (s : State) : Fed s.hWords s.openBytes s := by
  have hlt := s.fill.isLt
  refine ⟨?_, ?_, fun i hi => ?_⟩
  · rw [length_openBytes, Nat.mod_eq_of_lt hlt]
  · rw [blocks_eq_map_slice, length_openBytes, Nat.div_eq_of_lt hlt]
    rfl
  · rw [length_openBytes, Nat.mod_eq_of_lt hlt] at hi
    rw [length_openBytes, Nat.div_eq_of_lt hlt, Nat.mul_zero, Nat.zero_add, s.bByte_eq_block, State.openBytes,
      List.getD_eq_getElem?_getD, List.getD_eq_getElem?_getD, List.getElem?_take_of_lt hi]

/-- The byte at each index of the open block after an append, that at FILL included. -/
theorem Fed.appended_byte {h₀ : Vector Word 8} {p : List Byte} {x : Byte} {s t : State} (hs : Fed h₀ p s)
    (ha : Appended x s t) {i : BitVec 6} (hi : i.toNat ≤ p.length % 64) :
    t.bByte i = (p ++ [x]).getD (64 * (p.length / 64) + i.toNat) 0 := by
  by_cases he : i = s.fill
  · rw [he, ha.bByte_eq, hs.fill, Nat.div_add_mod]
    simp
  · have hne : i.toNat ≠ s.fill.toNat := fun h => he (BitVec.eq_of_toNat_eq h)
    have hfill := hs.fill
    have hkept : t.bByte i = s.bByte i := congrArg Reg.val (ha.keepsBytes ⟨i.toNat, i.isLt⟩ hne)
    rw [hkept, hs.buffer i (by omega), List.getD_append _ _ _ _ (by omega)]

/-- While the block has room an append leaves the running state alone. -/
theorem Fed.append_room {h₀ : Vector Word 8} {p : List Byte} {x : Byte} {s t : State} (hs : Fed h₀ p s)
    (ha : Appended x s t) (hh : t.h = s.h) (h63 : p.length % 64 ≠ 63) : Fed h₀ (p ++ [x]) t where
  fill := by rw [ha.toNat_fill, hs.fill, List.length_append, List.length_singleton]; omega
  folded := by rw [blocks_append_room h63, ← hs.folded, State.hWords, State.hWords, hh]
  buffer i hi := by
    rw [List.length_append, List.length_singleton] at hi ⊢
    rw [hs.appended_byte ha (by omega), show (p.length + 1) / 64 = p.length / 64 by omega]

/-- When the byte fills the block, the buffer holds the new slice. -/
theorem Fed.block_eq_slice {h₀ : Vector Word 8} {p : List Byte} {x : Byte} {s t : State} (hs : Fed h₀ p s)
    (ha : Appended x s t) (h63 : p.length % 64 = 63) : t.block = slice (p ++ [x]) (p.length / 64) := by
  unfold State.block slice
  congr 1
  funext i
  have hi : (BitVec.ofNat 6 i.val).toNat = i.val := by rw [BitVec.toNat_ofNat, Nat.mod_eq_of_lt i.isLt]
  have hbyte := hs.appended_byte ha (i := BitVec.ofNat 6 i.val) (by rw [hi]; omega)
  rw [hi] at hbyte
  rw [← hbyte, State.bByte]
  simp only [hi, Fin.getElem_fin]

/-- The steps of the sequencer that an append starts: none, or a compression. -/
def appendCost (n : Nat) : Nat := if n % 64 = 63 then 115 else 0

/-- An append, and the compression where it fills the block: the byte has then been fed, and the phase is the one HFOLD
chooses or the one before. -/
theorem Fed.append {h₀ : Vector Word 8} {p : List Byte} {x : Byte} {s t : State} (hs : Fed h₀ p s) (ha : Appended x s t)
    (hh : t.h = s.h) (hw : HostWaits t) : ∃ u, RunsWithin Compressing (appendCost p.length) t u ∧ Fed h₀ (p ++ [x]) u ∧
      u.phase = (if p.length % 64 = 63 then phaseAfterFold t.fin.val t.ps.val else s.phase) ∧
      KeepsBut [.h, .v, .w, .phase, .stage, .t] t u := by
  have hnext := ha.next
  have hfill := hs.fill
  unfold appendCost
  by_cases h63 : p.length % 64 = 63
  · rw [if_pos (BitVec.eq_of_toNat_eq (y := 63) (hfill.trans h63))] at hnext
    obtain ⟨hp, hst, -⟩ := hnext
    obtain ⟨u, hrun, hfold, hphase, -, hk⟩ := block_run hp (by rw [hst]; rfl) hw
    rw [if_pos h63, if_pos h63]
    refine ⟨u, hrun, ⟨?_, ?_, fun i hi => ?_⟩, hphase, hk⟩
    · rw [hk.fill_eq, ha.toNat_fill, hfill, List.length_append,
        List.length_singleton]
      omega
    · rw [hfold, blocks_append_full h63, List.foldl_append, ← hs.folded, hs.block_eq_slice ha h63, State.hWords, hh]
      rfl
    · rw [List.length_append, List.length_singleton] at hi
      omega
  · rw [if_neg fun h => h63 (by rw [← hfill, h]; rfl)] at hnext
    rw [if_neg h63, if_neg h63]
    exact ⟨t, .refl _ t, hs.append_room ha hh h63, hnext.1, by simp [keepsBut_iff]⟩

/-! ### Counting -/

/-- The steps of the sequencer and the host for `k` bytes after the first `n`: one a byte, and 115 a block that fills. -/
def feedCost (n k : Nat) : Nat := k + 115 * ((n + k) / 64 - n / 64)

@[simp] theorem feedCost_zero (n : Nat) : feedCost n 0 = 0 := by simp [feedCost]

theorem feedCost_succ (n k : Nat) : feedCost n (k + 1) = 1 + appendCost n + feedCost (n + 1) k := by
  unfold feedCost appendCost
  split <;> omega

theorem feedCost_add (n j k : Nat) : feedCost n (j + k) = feedCost n j + feedCost (n + j) k := by
  unfold feedCost
  omega

/-- FINAL to DONE costs what the padding bytes cost (R130). -/
theorem finalUops_eq_feedCost (n : Nat) : finalUops n = feedCost n (1 + zeroCount n + 8) := by
  unfold finalUops feedCost zeroCount Config.uopsPerBlock
  split <;> omega

/-- The bytes of a message and its padding cost what 70_reset R250 says. -/
theorem hashUops_eq_feedCost (n : Nat) : n + hashUops n = feedCost 0 n + finalUops n := by
  have hadd := feedCost_add 0 n (1 + zeroCount n + 8)
  have hlen := padded_length_eq n
  rw [Nat.zero_add] at hadd
  rw [finalUops_eq_feedCost, ← hadd, show n + (1 + zeroCount n + 8) = 64 * blockCount n by omega]
  unfold feedCost hashUops Config.uopsPerBlock Config.blockBytes
  omega

end Sys2Proof.Machine
end

section
/-! PROOFS, the padder's run (40_padder R126 to R130): from FINAL to DONE the sequencer feeds the marker, the zero bytes and
the length bytes, and compresses the one or two blocks they fill. -/

namespace Sys2Proof.Machine

/-- The sequencer has a step (00_scope R13). -/
def Busy (s : State) : Prop := seqBusy s.phase = true

/-- Between FINAL and DONE of a hash with the length and the host of `s₀`: the bytes `p` have been fed from running state
`h₀`. -/
structure Padding (h₀ : Vector Word 8) (s₀ : State) (p : List Byte) (s : State) : Prop where
  fin : s.fin.val = 1
  fed : Fed h₀ p s
  len : s.len = s₀.len
  host : s.host = s₀.host

section
variable {h₀ : Vector Word 8} {s₀ s t : State} {p : List Byte}

/-- A micro-operation that appends, with the compression it may start: PAD goes on unless a block is full and its last byte
was the last length byte (R154). -/
theorem Padding.append {i : Instr} {x : Byte} (hs : Padding h₀ s₀ p s) (hw : HostWaits s₀) (hp : s.phase = Phase.pad)
    (hd : decodeSel s.sw = .ok i) (he : exec i s = .next t) (ha : Appended x s t)
    (hk : KeepsBut [.b, .fill, .ps, .lk, .phase, .stage, .t] s t) :
    ∃ u, RunsWithin Busy (1 + appendCost p.length) s u ∧ Padding h₀ s₀ (p ++ [x]) u ∧
      u.phase = (if p.length % 64 = 63 ∧ t.ps.val = PadStage.ended then Phase.done else Phase.pad) ∧
      u.ps = t.ps ∧ u.lk = t.lk := by
  have hbusy : Busy s := by unfold Busy; rw [hp]; rfl
  have hfin : t.fin.val = 1 := (congrArg Reg.val hk.fin_eq).trans hs.fin
  obtain ⟨u, hrun, hfed, hphase, hkept⟩ := hs.fed.append ha hk.h_eq
    (hw.of_host_eq (hk.host_eq.trans hs.host))
  refine ⟨u, (RunsWithin.microOp hbusy (hw.of_host_eq hs.host) hbusy hd he).trans
    (hrun.mono fun _ => Compressing.busy), ⟨?_, hfed, ?_, ?_⟩, ?_, hkept.ps_eq, hkept.lk_eq⟩
  · rw [hkept.fin_eq, hfin]
  · rw [hkept.len_eq, hk.len_eq, hs.len]
  · rw [hkept.host_eq, hk.host_eq, hs.host]
  · rw [hphase, hfin, hp]
    by_cases h63 : p.length % 64 = 63 <;> simp [h63, phaseAfterFold]

/-- In PAD with the pad stage that the fill level asks for (R126, R127): the zero bytes or the length bytes are due. -/
def PadStageSet (s : State) : Prop := s.phase = Phase.pad ∧ s.ps.val = padStageAt s.fill

/-- PAD80 or PAD00, and the compression it may start. -/
theorem Padding.padByte {i : Instr} {x : Byte} (hs : Padding h₀ s₀ p s) (hw : HostWaits s₀) (hp : s.phase = Phase.pad)
    (hd : decodeSel s.sw = .ok i)
    (he : exec i s = .next (((s.bufAppend x).setPs (padStageAt (s.fill + 1))).silent)) :
    ∃ u, RunsWithin Busy (1 + appendCost p.length) s u ∧ Padding h₀ s₀ (p ++ [x]) u ∧ PadStageSet u ∧ u.lk = s.lk := by
  have ha := ((appended_bufAppend s x).setPs (padStageAt (s.fill + 1))).setRsp none
  obtain ⟨u, hrun, hu, hphase, hps, hlk⟩ := hs.append hw hp hd he ha (by simp [keepsBut_iff])
  have hstage : padStageAt (s.fill + 1) ≠ PadStage.ended := by
    rcases padStageAt_cases (s.fill + 1) with ⟨-, h⟩ | ⟨-, h⟩ <;> rw [h] <;> decide
  refine ⟨u, hrun, hu, ⟨hphase.trans (if_neg fun h => hstage h.2), ?_⟩, hlk.trans (bufAppend_lk s x)⟩
  have hfill : u.fill = s.fill + 1 := by
    apply BitVec.eq_of_toNat_eq
    rw [hu.fed.fill, ← bufAppend_fill s x, (appended_bufAppend s x).toNat_fill, hs.fed.fill, List.length_append,
      List.length_singleton]
    omega
  rw [hps, hfill]
  rfl

/-- The zero bytes, up to fill level 56. -/
theorem Padding.zeros (z : Nat) (hs : Padding h₀ s₀ p s) (hw : HostWaits s₀) (hset : PadStageSet s) (hz : z < 64)
    (h56 : (p.length + z) % 64 = 56) :
    ∃ u, RunsWithin Busy (feedCost p.length z) s u ∧ Padding h₀ s₀ (p ++ List.replicate z 0x00) u ∧
      u.phase = Phase.pad ∧ u.ps.val = PadStage.length ∧ u.lk = s.lk := by
  induction z generalizing s p with
  | zero =>
    have hfill : s.fill = 56 := BitVec.eq_of_toNat_eq (y := 56) (hs.fed.fill.trans h56)
    refine ⟨s, by rw [feedCost_zero]; exact .refl _ s, by simpa using hs, hset.1, ?_, rfl⟩
    rw [hset.2, hfill]
    rfl
  | succ z ih =>
    have hfill := hs.fed.fill
    have hzero : s.ps.val = PadStage.zero := hset.2.trans (if_neg (by bv_omega))
    obtain ⟨u, hrun, hu, huset, hlk⟩ := hs.padByte hw hset.1 (decodeSel_pad00 hset.1 hzero) (exec_pad00 s)
    obtain ⟨v, hrun', hv, hphase, hps, hlk'⟩ := ih hu huset (by omega) (by simp; omega)
    rw [List.length_append, List.length_singleton] at hrun'
    rw [feedCost_succ]
    refine ⟨v, hrun.trans hrun', ?_, hphase, hps, hlk'.trans hlk⟩
    rwa [List.replicate_succ, ← List.singleton_append, ← List.append_assoc]

theorem lengthField_drop (len : BitVec 64) (k : BitVec 3) :
    (lengthField len).drop k.toNat = lengthByte len k :: (lengthField len).drop (k.toNat + 1) := by
  rw [List.drop_eq_getElem_cons (by simpa using k.isLt)]
  simp [lengthField]

/-- The length bytes from byte LK on, and the last block. -/
theorem Padding.lengthBytes (j : Nat) (hs : Padding h₀ s₀ p s) (hw : HostWaits s₀) (hp : s.phase = Phase.pad)
    (hps : s.ps.val = PadStage.length) (hj : s.lk.val.toNat + j = 7) (hfill : p.length % 64 = 56 + s.lk.val.toNat) :
    ∃ u, RunsWithin Busy (feedCost p.length (j + 1)) s u ∧
      Padding h₀ s₀ (p ++ (lengthField s₀.len.val).drop s.lk.val.toNat) u ∧ u.phase = Phase.done := by
  induction j generalizing s p with
  | zero =>
    have h7 : s.lk.val = 7 := BitVec.eq_of_toNat_eq hj
    obtain ⟨u, hrun, hu, hphase, -⟩ := hs.append hw hp (decodeSel_padlen hp hps) (exec_padlen_last h7)
      (((appended_bufAppend s _).setPs PadStage.ended).setRsp none) (by simp [keepsBut_iff])
    have hend : (lengthField s.len.val).drop (s.lk.val.toNat + 1) = [] := List.drop_eq_nil_of_le (by simp; omega)
    rw [feedCost_succ, feedCost_zero, lengthField_drop, ← hs.len, hend]
    exact ⟨u, hrun, hu, hphase.trans (if_pos ⟨by omega, rfl⟩)⟩
  | succ j ih =>
    have h7 : s.lk.val ≠ 7 := by bv_omega
    obtain ⟨u, hrun, hu, hphase, hups, hlk⟩ := hs.append hw hp (decodeSel_padlen hp hps) (exec_padlen_more h7)
      (((appended_bufAppend s _).setLk (s.lk.val + 1)).setRsp none) (by simp [keepsBut_iff])
    have hlk' : u.lk.val.toNat = s.lk.val.toNat + 1 := by
      rw [hlk]
      show (s.lk.val + 1).toNat = _
      bv_omega
    have hups' : u.ps.val = PadStage.length := by rw [hups, ← hps]; simp
    obtain ⟨v, hrun', hv, hdone⟩ := ih hu (hphase.trans (if_neg (by omega))) hups' (by omega) (by simp; omega)
    rw [List.length_append, List.length_singleton] at hrun'
    rw [feedCost_succ, lengthField_drop, ← hlk', ← hs.len]
    refine ⟨v, hrun.trans hrun', ?_, hdone⟩
    rwa [← hs.len, List.append_assoc, List.singleton_append] at hv

/-- From FINAL, with the host waiting, the sequencer feeds the padding and is DONE after the steps of R130, and not before. -/
theorem pad_run (hp : s.phase = Phase.pad) (hfin : s.fin.val = 1) (hps : s.ps.val = PadStage.mark) (hlk : s.lk.val = 0)
    (hw : HostWaits s) (hs : Fed h₀ p s) : ∃ t, RunsWithin Busy (finalUops p.length) s t ∧ t.phase = Phase.done ∧
      Padding h₀ s (p ++ [0x80] ++ List.replicate (zeroCount p.length) 0x00 ++ lengthField s.len.val) t := by
  have hstart : Padding h₀ s p s := ⟨hfin, hs, rfl, rfl⟩
  obtain ⟨u, hmark, hu, huset, hulk⟩ := hstart.padByte hw hp (decodeSel_pad80 hp hps) (exec_pad80 s)
  have hmarked : (p ++ [0x80]).length = p.length + 1 := List.length_append
  obtain ⟨v, hzeros, hv, hvp, hvps, hvlk⟩ := hu.zeros (zeroCount p.length) hw huset (zeroCount_lt _)
    (hmarked ▸ mod_of_zeroCount p.length)
  have hfilled : (p ++ [0x80] ++ List.replicate (zeroCount p.length) 0x00).length = p.length + 1 + zeroCount p.length := by
    rw [List.length_append, hmarked, List.length_replicate]
  have hlk0 : v.lk.val.toNat = 0 := by rw [hvlk, hulk, hlk]; rfl
  have h56 : (p ++ [0x80] ++ List.replicate (zeroCount p.length) 0x00).length % 64 = 56 + v.lk.val.toNat := by
    rw [hfilled, hlk0, mod_of_zeroCount]
  obtain ⟨t, hlen, ht, hdone⟩ := hv.lengthBytes 7 hw hvp hvps (by omega) h56
  rw [hlk0, List.drop_zero] at ht
  refine ⟨t, ?_, hdone, ht⟩
  rw [hmarked] at hzeros
  rw [hfilled] at hlen
  have hcost : finalUops p.length = 1 + appendCost p.length + feedCost (p.length + 1) (zeroCount p.length) +
      feedCost (p.length + 1 + zeroCount p.length) 8 := by
    rw [finalUops_eq_feedCost, feedCost_add, feedCost_add, feedCost_succ, feedCost_zero, Nat.add_zero, ← Nat.add_assoc]
  rw [hcost]
  exact (hmark.trans hzeros).trans hlen

end

/-- The bounds of R130 over all fill levels. -/
theorem finalUops_bounds (n : Nat) : 124 ≤ finalUops n ∧ finalUops n ≤ 302 := by
  unfold finalUops zeroCount Config.uopsPerBlock
  split <;> omega

/-- The compression that a full block starts in an open message ends in ABSORB (R130). -/
theorem absorb_full_run {b : Byte} {s t : State} (hp : s.phase = Phase.absorb) (h63 : s.fill = 63) (hfin : s.fin.val = 0)
    (hl : s.len.val ≠ lastLen) (hw : HostWaits s) (h : exec (.absorb b) s = .next t) :
    ∃ u, RunsWithin Compressing 115 t u ∧ u.phase = Phase.absorb := by
  rw [exec_absorb_appends b hp hl] at h
  cases h
  have hnext := (appended_absorb s (s.len.val + 8) b).next
  rw [if_pos h63] at hnext
  obtain ⟨hphase, hstage, -⟩ := hnext
  obtain ⟨u, hrun, -, hu, -⟩ := block_run hphase (by rw [hstage]; rfl) (hw.of_host_eq (by simp))
  refine ⟨u, hrun, hu.trans (if_pos ?_)⟩
  simpa using hfin

/-- Settles O57, from the padder's run and the run of a block. -/
theorem finalReachesDoneInStatedSteps : Obligations.FinalReachesDoneInStatedSteps := by
  refine ⟨fun s hp hfin hps hlk hw => ?_, fun f => finalUops_bounds f.toNat, rfl, rfl, fun b s t hp h63 hfin hl hw h => ?_⟩
  · obtain ⟨t, hrun, hdone, -⟩ := pad_run hp hfin hps hlk hw (fed_openBytes s)
    rw [length_openBytes] at hrun
    exact ⟨⟨t, hrun.ends, hdone⟩, hrun.before⟩
  · obtain ⟨u, hrun, hu⟩ := absorb_full_run hp h63 hfin hl hw h
    exact ⟨⟨u, hrun.ends, hu⟩, hrun.before⟩

end Sys2Proof.Machine
end

section
/-! PROOFS, the hash of a message (40_padder R129, 41_compressor R155, 44_entry_point R192): INIT opens it, every ABSORB feeds
its byte, FINAL starts the padder, and what has then been fed from IV is `Pad(M)`. -/

namespace Sys2Proof.Machine

/-- What the host still does leaves the sequencer alone: nothing, or a command kept offered. -/
def Waiting (l : List HostInput) : Prop := l = [] ∨ ∃ c later, l = ⟨false, some ⟨c, []⟩⟩ :: later

theorem waiting_offer (c : CmdWord) (l : List HostInput) : Waiting (offer c :: l) := .inr ⟨c, l, rfl⟩

theorem Waiting.absorbAll_append {l : List HostInput} (h : Waiting l) (m : List Byte) : Waiting (absorbAll m ++ l) := by
  cases m with
  | nil => exact h
  | cons x m => exact waiting_offer _ _

theorem Waiting.hostWaits {l : List HostInput} (h : Waiting l) {s : State} (hs : s.host = l) : HostWaits s := by
  subst hs; exact h

/-- The step that accepts a command at the head of the host's list (30_encoding R100). -/
theorem step_offer {s t : State} {c : CmdWord} {l : List HostInput} {i : Instr} (hh : s.host = offer c :: l)
    (hd : Decodes s.phase) (hi : encode i = .cmd c) (he : exec i (s.setHost l) = .next t) : step s = .next t :=
  (stepRunsOfferedCommand s c l i ⟨[], hh⟩ hd (decodeCmd_of_encode hi)).trans he

/-- A hash is open in ABSORB and the message bytes `p` have been fed from IV. -/
structure Absorbing (p : List Byte) (s : State) : Prop where
  phase : s.phase = Phase.absorb
  fin : s.fin.val = 0
  fed : Fed iv p s
  len : s.len.val.toNat = 8 * p.length

/-- INIT opens the hash of no bytes, whatever the registers hold (R190). -/
theorem init_step {s : State} {l : List HostInput} (hh : s.host = offer wordInit :: l) (hd : Decodes s.phase) :
    ∃ t, step s = .next t ∧ Absorbing [] t ∧ t.host = l := by
  refine ⟨_, step_offer (i := .init) hh hd rfl (exec_init hd), ⟨rfl, rfl, ⟨rfl, ?_, nofun⟩, rfl⟩, rfl⟩
  show State.hWords _ = iv
  simp [State.hWords]

/-- An ABSORB feeds its byte (R124), and the compression of a block that it fills ends in ABSORB again. -/
theorem Absorbing.byte {p : List Byte} {x : Byte} {s : State} {l : List HostInput} (hs : Absorbing p s)
    (hh : s.host = offer (wordAbsorb x) :: l) (hl : Waiting l) (hlen : 8 * (p.length + 1) < 2 ^ 64) :
    ∃ u, steps (1 + appendCost p.length) s = .next u ∧ Absorbing (p ++ [x]) u ∧ u.host = l := by
  have hs' : Absorbing p (s.setHost l) := { hs with fed := hs.fed.congr rfl rfl rfl }
  have hlast : s.len.val ≠ lastLen := fun h => by
    have := hs.len
    rw [h, show lastLen.toNat = 2 ^ 64 - 8 from rfl] at this
    omega
  have hnext := toNat_len_add_eight (len := s.len.val) (by rw [hs.len]; omega) hlast
  have hstep := step_offer hh (.inr (.inl hs.phase)) (encode_absorb x)
    (exec_absorb_appends (s := s.setHost l) x hs.phase hlast)
  have ha := appended_absorb (s.setHost l) (s.len.val + 8) x
  obtain ⟨u, hrun, hfed, hphase, hk⟩ := hs'.fed.append ha (by simp) (hl.hostWaits (by simp))
  have hfin : u.fin = s.fin := hk.fin_eq.trans (by simp)
  have hulen : u.len = Reg.wrote (s.len.val + 8) := hk.len_eq.trans (by simp)
  refine ⟨u, (steps_add (m := 1) (steps_succ hstep 0) _).trans hrun.ends, ⟨?_, by rw [hfin, hs.fin], hfed, ?_⟩,
    hk.host_eq.trans (by simp)⟩
  · rw [hphase]
    split
    · exact if_pos (by simpa using hs.fin)
    · exact hs.phase
  · rw [hulen, Reg.wrote_val, hnext, hs.len, List.length_append, List.length_singleton]
    omega

/-- The ABSORBs of a byte sequence, one a byte. -/
theorem Absorbing.bytes (q : List Byte) {p : List Byte} {s : State} {l : List HostInput} (hs : Absorbing p s)
    (hh : s.host = absorbAll q ++ l) (hl : Waiting l) (hlen : 8 * (p.length + q.length) < 2 ^ 64) :
    ∃ u, steps (feedCost p.length q.length) s = .next u ∧ Absorbing (p ++ q) u ∧ u.host = l := by
  induction q generalizing p s with
  | nil => exact ⟨s, by rw [List.length_nil, feedCost_zero, steps_zero], by rwa [List.append_nil], hh⟩
  | cons x q ih =>
    rw [List.length_cons] at hlen ⊢
    obtain ⟨t, hbyte, ht, hth⟩ := hs.byte hh (hl.absorbAll_append q) (by omega)
    obtain ⟨u, hrun, hu, huh⟩ := ih ht hth (by simp; omega)
    rw [List.length_append, List.length_singleton] at hrun
    refine ⟨u, ?_, ?_, huh⟩
    · rw [feedCost_succ, steps_add hbyte, hrun]
    · rwa [List.append_assoc, List.singleton_append] at hu

/-- FINAL and the padder's run: `Pad(M)` has then been fed from IV (R125, R129). -/
theorem Absorbing.final {m : List Byte} {s : State} {l : List HostInput} (hs : Absorbing m s)
    (hh : s.host = offer wordFinal :: l) (hl : Waiting l) :
    ∃ t, steps (1 + finalUops m.length) s = .next t ∧ t.phase = Phase.done ∧ Fed iv (pad m) t ∧
      t.len.val.toNat = 8 * m.length ∧ t.host = l := by
  have hstep := step_offer (i := .final) hh (.inr (.inl hs.phase)) rfl (exec_final (s := s.setHost l) hs.phase)
  obtain ⟨t, hrun, hdone, ht⟩ := pad_run
    (s := (((((s.setHost l).setFin 1).setPs PadStage.mark).setLk 0).setPhase Phase.pad).respondStatus)
    rfl rfl rfl rfl (hl.hostWaits rfl) (hs.fed.congr (by simp) (by simp) (by simp))
  have hlen : s.len.val = BitVec.ofNat 64 (8 * m.length) := by rw [← hs.len, BitVec.ofNat_toNat, BitVec.setWidth_eq]
  refine ⟨t, (steps_add (m := 1) (steps_succ hstep 0) _).trans hrun.ends, hdone, ?_, ?_, ht.host⟩
  · rw [pad, ← hlen]
    exact ht.fed
  · rw [ht.len]
    exact hs.len

/-- Settles O59: the bytes of `Pad(M)` fed from IV are its blocks folded, and they fill whole blocks. -/
theorem hashOfEveryMessage : Obligations.HashOfEveryMessage := by
  intro m s rest hm hd hh hrest
  have hbits := bitLength_lt hm
  rw [hashInputs, List.cons_append, List.append_assoc, List.singleton_append] at hh
  obtain ⟨u, hinit, hu, huh⟩ := init_step hh hd
  obtain ⟨v, habsorb, hv, hvh⟩ := hu.bytes m huh (waiting_offer _ _) (by simpa using hbits)
  rw [List.length_nil] at habsorb
  rw [List.nil_append] at hv
  obtain ⟨t, hfinal, hdone, hfed, hlen, hth⟩ := hv.final hvh hrest
  have hcount : m.length + 2 + hashUops m.length = feedCost 0 m.length + (1 + finalUops m.length) + 1 := by
    have := hashUops_eq_feedCost m.length
    omega
  refine ⟨t, ?_, hdone, hfed.folded, BitVec.eq_of_toNat_eq ?_, hlen, hth⟩
  · rw [hcount, steps_succ hinit, steps_add habsorb, hfinal]
  · rw [hfed.fill, length_pad, padded_length_eq, Nat.mul_mod_right]
    rfl

end Sys2Proof.Machine
end

section
/-! PROOFS, the word functions bit by bit (41_compressor R143 to R149). -/

namespace Sys2Proof.Machine

variable {x y z : Word} {n i : Nat}

/-- ROTR brings bit `i + n`, counted round the word, to bit `i` (R143): the shift right supplies the bits that stay in the
word, the shift left those that come round. -/
theorem getLsbD_rotr (hn : 0 < n) (hn' : n < 32) (hi : i < 32) : (rotr x n).getLsbD i = x.getLsbD ((i + n) % 32) := by
  rw [rotr, BitVec.getLsbD_or, BitVec.getLsbD_ushiftRight, BitVec.getLsbD_shiftLeft]
  by_cases h : i + n < 32
  · have hstay : i < 32 - n := by omega
    rw [Nat.mod_eq_of_lt h, Nat.add_comm n]
    simp [hstay]
  · have hround : ¬ i < 32 - n := by omega
    rw [BitVec.getLsbD_of_ge x _ (by omega), show (i + n) % 32 = i - (32 - n) by omega]
    simp [hi, hround]

theorem getLsbD_shr : (shr x n).getLsbD i = (decide (i + n < 32) && x.getLsbD (i + n)) := by
  rw [shr, BitVec.getLsbD_ushiftRight, Nat.add_comm n]
  by_cases h : i + n < 32
  · simp [h]
  · simp [h, BitVec.getLsbD_of_ge x _ (Nat.le_of_not_lt h)]

theorem getLsbD_ch (hi : i < 32) : (ch x y z).getLsbD i = if x.getLsbD i then y.getLsbD i else z.getLsbD i := by
  rw [ch, BitVec.getLsbD_xor, BitVec.getLsbD_and, BitVec.getLsbD_and, BitVec.getLsbD_not, decide_eq_true hi]
  cases x.getLsbD i <;> simp

/-- The exclusive or of the three pairs is the majority (R145). -/
theorem majority_eq (a b c : Bool) :
    ((a && b) ^^ (a && c) ^^ (b && c)) = decide (2 ≤ a.toNat + b.toNat + c.toNat) := by
  revert a b c; decide

theorem getLsbD_maj : (maj x y z).getLsbD i =
    decide (2 ≤ (x.getLsbD i).toNat + (y.getLsbD i).toNat + (z.getLsbD i).toNat) := by
  simp only [maj, BitVec.getLsbD_xor, BitVec.getLsbD_and, majority_eq]

/-- Three rotations, as in BSIG0 and BSIG1 (R146, R147). -/
theorem getLsbD_rotr_xor_rotr_xor_rotr {k l m : Nat} (hk : 0 < k ∧ k < 32) (hl : 0 < l ∧ l < 32) (hm : 0 < m ∧ m < 32)
    (hi : i < 32) : (rotr x k ^^^ rotr x l ^^^ rotr x m).getLsbD i =
      (x.getLsbD ((i + k) % 32) ^^ x.getLsbD ((i + l) % 32) ^^ x.getLsbD ((i + m) % 32)) := by
  rw [BitVec.getLsbD_xor, BitVec.getLsbD_xor, getLsbD_rotr hk.1 hk.2 hi, getLsbD_rotr hl.1 hl.2 hi,
    getLsbD_rotr hm.1 hm.2 hi]

/-- Two rotations and a shift, as in SSIG0 and SSIG1 (R148, R149). -/
theorem getLsbD_rotr_xor_rotr_xor_shr {k l m : Nat} (hk : 0 < k ∧ k < 32) (hl : 0 < l ∧ l < 32) (hi : i < 32) :
    (rotr x k ^^^ rotr x l ^^^ shr x m).getLsbD i =
      (x.getLsbD ((i + k) % 32) ^^ x.getLsbD ((i + l) % 32) ^^ (decide (i + m < 32) && x.getLsbD (i + m))) := by
  rw [BitVec.getLsbD_xor, BitVec.getLsbD_xor, getLsbD_rotr hk.1 hk.2 hi, getLsbD_rotr hl.1 hl.2 hi, getLsbD_shr]

/-- Settles O38: a sigma function is three rotations, or two and a shift. -/
theorem wordFunctionsBitByBit : Obligations.WordFunctionsBitByBit := fun _ _ _ _ _ hn hn' hi =>
  ⟨getLsbD_rotr hn hn' hi, getLsbD_shr, getLsbD_ch hi, getLsbD_maj,
    getLsbD_rotr_xor_rotr_xor_rotr (by decide) (by decide) (by decide) hi,
    getLsbD_rotr_xor_rotr_xor_rotr (by decide) (by decide) (by decide) hi,
    getLsbD_rotr_xor_rotr_xor_shr (by decide) (by decide) hi,
    getLsbD_rotr_xor_rotr_xor_shr (by decide) (by decide) hi⟩

end Sys2Proof.Machine
end

section
/-! PROOFS, the compressor's micro-operations, one by one (41_compressor R150 to R154), and the whole block (R155). -/

namespace Sys2Proof.Machine

variable {s t : State}

/-- Settles O56: it is the run of a block, its steps in COMPRESS left aside. -/
theorem blockIsCompressedIn115Steps : Obligations.BlockIsCompressedIn115Steps := by
  intro s hp hst hw
  obtain ⟨t, hrun, hwords, hphase, hrsp, hkeeps⟩ := block_run hp hst hw
  exact ⟨t, hrun.ends, hwords, hphase, hrsp, hkeeps⟩

/-! ### WLOAD -/

/-- Word `i` of the buffer is bytes `4i` to `4i + 3`, the first most significant (20_memory R64). -/
theorem blockWord_ofNat (s : State) {i : Nat} (hi : i < 16) : s.blockWord (BitVec.ofNat 4 i) =
    s.b[4 * i].val ++ s.b[4 * i + 1].val ++ s.b[4 * i + 2].val ++ s.b[4 * i + 3].val := by
  have hindex : (BitVec.ofNat 4 i).toNat = i := by rw [BitVec.toNat_ofNat, Nat.mod_eq_of_lt hi]
  simp only [State.blockWord, State.bByte, toNat_append_two, hindex]
  rfl

theorem loadedWords_below (s : State) {i : Nat} (hi : i < 16) :
    (loadedWords s)[i] = Reg.wrote (s.blockWord (BitVec.ofNat 4 i)) := by
  rw [loadedWords, Vector.getElem_ofFn, if_pos hi]

theorem loadedWords_above (s : State) {i : Fin 64} (hi : 16 ≤ i.val) : (loadedWords s)[i] = s.w[i] := by
  rw [loadedWords, Fin.getElem_fin, Vector.getElem_ofFn, if_neg (Nat.not_lt.2 hi)]

/-- Settles O28. -/
theorem wloadLoadsBigEndianWords : Obligations.WloadLoadsBigEndianWords := fun s =>
  ⟨decodeSel_wload, _, exec_wload s, fun _ hi => (loadedWords_below s hi).trans (by rw [blockWord_ofNat s hi]),
    fun _ hi => loadedWords_above s hi, rfl, rfl, rfl, rfl, by simp [keepsBut_iff]⟩

/-! ### WEXT -/

/-- What WEXT makes of `W`, wherever the sequencer goes next (R151). -/
theorem extendedWords_spec (h : t.w = extendedWords s) : t.wWord s.t.val = nextScheduleWord s ∧
    (∀ i : Fin 64, i.val = s.t.val.toNat → t.w[i].written = true) ∧
    ∀ i : Fin 64, i.val ≠ s.t.val.toNat → t.w[i] = s.w[i] := by
  refine ⟨by simp [State.wWord, h], fun i hi => ?_, fun i hi => ?_⟩
  · simp [h, hi]
  · rw [h, extendedWords, Fin.getElem_fin, Vector.getElem_set_ne _ _ hi.symm, Fin.getElem_fin]

/-- Settles O29: `W` is extended alike, and `T` decides what is next. -/
theorem wextDerivesScheduleWord : Obligations.WextDerivesScheduleWord := by
  refine fun s => ⟨decodeSel_wext, fun h16 => ?_⟩
  by_cases h63 : s.t.val = 63
  · obtain ⟨hword, hwritten, hkept⟩ := extendedWords_spec (s := s)
      (t := ((s.writeSchedule s.t.val (nextScheduleWord s)).seq Phase.compress Stage.vinit 0).silent) rfl
    refine ⟨_, exec_wext_last h63, hword, hwritten, hkept, ?_, rfl, by simp [keepsBut_iff]⟩
    rw [if_pos h63]
    exact ⟨rfl, rfl, rfl⟩
  · obtain ⟨hword, hwritten, hkept⟩ := extendedWords_spec (s := s)
      (t := ((s.writeSchedule s.t.val (nextScheduleWord s)).setT (s.t.val + 1)).silent) rfl
    refine ⟨_, exec_wext_more h16 h63, hword, hwritten, hkept, ?_, rfl, by simp [keepsBut_iff]⟩
    rw [if_neg h63]
    exact ⟨rfl, rfl, rfl⟩

/-! ### VINIT and ROUND -/

/-- Settles O31. -/
theorem vinitCopiesRunningState : Obligations.VinitCopiesRunningState := fun s =>
  ⟨decodeSel_vinit, _, exec_vinit s, fun _ => by simp, rfl, rfl, rfl, rfl, by simp [keepsBut_iff]⟩

/-- Settles O32: each working variable is an entry of `roundVars`, and `T` decides what is next. -/
theorem roundUpdatesWorkingVariables : Obligations.RoundUpdatesWorkingVariables := by
  refine fun s => ⟨decodeSel_round, ?_⟩
  by_cases h63 : s.t.val = 63
  · refine ⟨_, exec_round_last h63, ⟨rfl, rfl, rfl, rfl, rfl, rfl, rfl, rfl⟩, roundVars_written s _ _, ?_, rfl,
      by simp [keepsBut_iff]⟩
    rw [if_pos h63]
    exact ⟨rfl, rfl, rfl⟩
  · refine ⟨_, exec_round_more h63, ⟨rfl, rfl, rfl, rfl, rfl, rfl, rfl, rfl⟩, roundVars_written s _ _, ?_, rfl,
      by simp [keepsBut_iff]⟩
    rw [if_neg h63]
    exact ⟨rfl, rfl, rfl⟩

/-! ### HFOLD -/

/-- Settles O33: the sum of words is the sum of numbers modulo 2^32. -/
theorem hfoldAddsBackAndLeaves : Obligations.HfoldAddsBackAndLeaves := by
  refine fun s => ⟨decodeSel_hfold, _, exec_hfold s, fun i => ?_, rfl, rfl, fun hfin => ?_, fun hfin hps => ?_,
    fun hfin hps => ?_, rfl, by simp [keepsBut_iff]⟩
  · simp [BitVec.toNat_add]
  · exact if_pos hfin
  · show phaseAfterFold s.fin.val s.ps.val = _
    rw [hfin, hps]
    rfl
  · show phaseAfterFold s.fin.val s.ps.val = _
    rw [hfin]
    exact if_neg hps

end Sys2Proof.Machine
end

section
/-! PROOFS, the constant tables (41_compressor R141, R142): a printed word is the fraction of a root exactly when, with the
whole part of the root before it, it is the root's whole part at 32 bits' more precision. -/

namespace Sys2Proof.Machine

/-- The word `x` is the first 32 bits of the fractional part of the `e`-th root of `p`, whose whole part is at most 6 (the
cube root of 311 is below 7). -/
abbrev IsRootFraction (e p : Nat) (x : Word) : Prop :=
  ∃ c < 7, (2 ^ 32 * c + x.toNat) ^ e ≤ p * 2 ^ (32 * e) ∧ p * 2 ^ (32 * e) < (2 ^ 32 * c + x.toNat + 1) ^ e

theorem IsRootFraction.exists_root {e p : Nat} {x : Word} (h : IsRootFraction e p x) :
    ∃ n : Nat, n ^ e ≤ p * 2 ^ (32 * e) ∧ p * 2 ^ (32 * e) < (n + 1) ^ e ∧ x = BitVec.ofNat 32 n := by
  obtain ⟨c, -, hle, hlt⟩ := h
  refine ⟨_, hle, hlt, BitVec.eq_of_toNat_eq ?_⟩
  rw [BitVec.toNat_ofNat, Nat.mul_add_mod, Nat.mod_eq_of_lt x.isLt]

theorem firstPrimes_eq : firstPrimes =
    [2, 3, 5, 7, 11, 13, 17, 19, 23, 29, 31, 37, 41, 43, 47, 53, 59, 61, 67, 71, 73, 79, 83, 89, 97, 101, 103, 107, 109,
      113, 127, 131, 137, 139, 149, 151, 157, 163, 167, 173, 179, 181, 191, 193, 197, 199, 211, 223, 227, 229, 233, 239,
      241, 251, 257, 263, 269, 271, 277, 281, 283, 293, 307, 311] := by
  decide +kernel

theorem kAt_isRootFraction : ∀ t < 64, IsRootFraction 3 (firstPrimes.getD t 0) (kAt (BitVec.ofNat 6 t)) := by
  rw [firstPrimes_eq]
  decide

theorem iv_isRootFraction : ∀ i, ∀ _ : i < 8, IsRootFraction 2 (firstPrimes.getD i 0) iv[i] := by
  rw [firstPrimes_eq]
  decide

/-- Settles O37: the tables are the printed ones, and each entry is the fraction of its root. -/
theorem constantTables : Obligations.ConstantTables :=
  ⟨rfl, rfl, by rw [firstPrimes_eq]; rfl, fun t ht => (kAt_isRootFraction t ht).exists_root,
    fun i hi => (iv_isRootFraction i hi).exists_root⟩

end Sys2Proof.Machine
end

section
/-! PROOFS, the digest assembler (42_digest_assembler R170 to R172) and the hex view (43_hex_encoder R181): words, bytes
and nibbles of H are slices of the one 256-bit value, and a slice of a slice is a slice. -/

namespace Sys2Proof.Machine

theorem extractLsb'_extractLsb' {w start len start' len' : Nat} (x : BitVec w) (h : start' + len' ≤ len) :
    (x.extractLsb' start len).extractLsb' start' len' = x.extractLsb' (start + start') len' := by
  ext i hi
  have hin : start' + i < len := by omega
  simp [hin, Nat.add_assoc]

/-! ### The views as slices of the digest -/

/-- `H[k]` is bits `255 - 32k` to `224 - 32k` of the digest (R170). The width is written as a sum so that the library's
lemmas about appends apply. -/
theorem extractLsb'_digestValue_word (h : Vector Word 8) (k : Nat) (hk : k < 8) :
    (digestValue h).extractLsb' (224 - 32 * k) 32 = h[k] := by
  change BitVec.extractLsb' (n := 32 + 32 + 32 + 32 + 32 + 32 + 32 + 32) _ 32 (_ ++ _) = h[k]
  interval_cases k <;> simp (disch := decide) only [BitVec.extractLsb'_append_eq_of_le,
    BitVec.extractLsb'_append_eq_of_add_le, BitVec.extractLsb'_eq_self, Nat.reduceMul, Nat.reduceSub]

theorem State.hWord_eq_hWords (s : State) (i : BitVec 3) : s.hWord i = s.hWords[i.toNat] := by
  simp [State.hWord, State.hWords]

theorem State.hWord_eq_slice (s : State) (i : BitVec 3) :
    s.hWord i = (digestValue s.hWords).extractLsb' (224 - 32 * i.toNat) 32 := by
  rw [extractLsb'_digestValue_word _ _ i.isLt, State.hWord_eq_hWords]

/-- An index over 32 bytes is a word index and a byte index in the word. -/
theorem toNat_extractLsb'_byteIndex (i : BitVec 5) :
    (i.extractLsb' 2 3).toNat = i.toNat / 4 ∧ (i.extractLsb' 0 2).toNat = i.toNat % 4 := by
  revert i; decide

theorem State.dig_eq_digestByte (s : State) (i : BitVec 5) : s.dig i = digestByte s.hWords i.toNat := by
  obtain ⟨hword, hbyte⟩ := toNat_extractLsb'_byteIndex i
  have hi := i.isLt
  rw [State.dig, wordByte, State.hWord_eq_slice, hword, hbyte, extractLsb'_extractLsb' _ (by omega), digestByte,
    show 224 - 32 * (i.toNat / 4) + (24 - 8 * (i.toNat % 4)) = 248 - 8 * i.toNat by omega]

/-- An index over 64 characters is a byte index and, by its parity, the choice of a nibble. -/
theorem toNat_extractLsb'_charIndex (j : BitVec 6) :
    (j.extractLsb' 1 5).toNat = j.toNat / 2 ∧ (j.extractLsb' 0 1 = 0 ↔ j.toNat % 2 = 0) := by
  revert j; decide

/-- Nibble `j`, counted from the most significant, is bits `255 - 4j` to `252 - 4j` of the digest (R181). -/
theorem State.hexNibble_eq_slice (s : State) (j : BitVec 6) :
    s.hexNibble j = (digestValue s.hWords).extractLsb' (252 - 4 * j.toNat) 4 := by
  obtain ⟨hbyte, heven⟩ := toNat_extractLsb'_charIndex j
  have hj := j.isLt
  simp only [State.hexNibble, State.dig_eq_digestByte, digestByte, hbyte, heven]
  split
  case isTrue h =>
    rw [extractLsb'_extractLsb' _ (by decide), show 248 - 8 * (j.toNat / 2) + 4 = 252 - 4 * j.toNat by omega]
  case isFalse h =>
    rw [extractLsb'_extractLsb' _ (by decide), show 248 - 8 * (j.toNat / 2) + 0 = 252 - 4 * j.toNat by omega]

/-- Settles O35: a view is a slice of the digest, and both sides name the same slice. -/
theorem viewsAreTheDigestValue : Obligations.ViewsAreTheDigestValue := fun s =>
  ⟨s.dig_eq_digestByte, fun j => congrArg hexRomAt (s.hexNibble_eq_slice j)⟩

/-! ### RDH and RDDIG -/

/-- Settles O18: it is `exec_rdh`, and a response is no register. -/
theorem rdhAnswersStateWord : Obligations.RdhAnswersStateWord := fun i _ hp =>
  ⟨_, exec_rdh i hp, rfl, by simp [keepsBut_iff]⟩

/-- A byte of a word by shift and mask. -/
theorem setWidth_wordByte (w : Word) (r : BitVec 2) :
    (wordByte w r).setWidth 32 = (w >>> (24 - 8 * r.toNat)) &&& 0xff := by
  apply BitVec.eq_of_toNat_eq
  rw [BitVec.toNat_and, show (0xff : Word).toNat = 2 ^ 8 - 1 from rfl, Nat.and_two_pow_sub_one_eq_mod,
    BitVec.toNat_setWidth_of_le (by decide), wordByte, BitVec.extractLsb'_toNat, BitVec.toNat_ushiftRight]

/-- Settles O19: the byte is that of the view, its two indices read off the command's. -/
theorem rddigAnswersDigestByte : Obligations.RddigAnswersDigestByte := by
  intro i s hp
  obtain ⟨hword, hbyte⟩ := toNat_extractLsb'_byteIndex i
  refine ⟨_, exec_rddig i hp, by simp [keepsBut_iff], ?_⟩
  rw [← hword, BitVec.ofNat_toNat, BitVec.setWidth_eq, ← hbyte, ← setWidth_wordByte]
  rfl

end Sys2Proof.Machine
end

section
/-! PROOFS, the hex encoder (43_hex_encoder R180 to R183): the character table by its formula, and the command that reads it. -/

namespace Sys2Proof.Machine

/-! ### The character table -/

theorem toNat_hexRomAt (n : BitVec 4) :
    (hexRomAt n).toNat = if n.toNat ≤ 9 then 0x30 + n.toNat else 0x61 + (n.toNat - 10) := by
  revert n; decide

/-- By the formula: the codes rise with the nibble, and the digits end below the letters. -/
theorem hexRomAt_injective : Function.Injective hexRomAt := by
  intro m n h
  have hcode := congrArg BitVec.toNat h
  rw [toNat_hexRomAt, toNat_hexRomAt] at hcode
  apply BitVec.eq_of_toNat_eq
  split at hcode <;> split at hcode <;> omega

/-- Settles O36: the formula entry by entry, and injectivity from the formula. -/
theorem hexTableIsLowercaseAscii : Obligations.HexTableIsLowercaseAscii :=
  ⟨toNat_hexRomAt, fun _ _ h => hexRomAt_injective h⟩

/-! ### RDHEX -/

/-- The nibble by the character index in numbers: byte `j div 2`, the high nibble for even `j` (R181). -/
theorem State.hexNibble_eq_of_parity (s : State) (j : BitVec 6) :
    s.hexNibble j = if j.toNat % 2 = 0
      then (s.dig (BitVec.ofNat 5 (j.toNat / 2))).extractLsb' 4 4
      else (s.dig (BitVec.ofNat 5 (j.toNat / 2))).extractLsb' 0 4 := by
  obtain ⟨hbyte, heven⟩ := toNat_extractLsb'_charIndex j
  simp only [State.hexNibble, heven, ← hbyte, BitVec.ofNat_toNat, BitVec.setWidth_eq]

/-- Settles O20: it is `exec_rdhex`, the nibble named by the index in numbers; a response is no register. -/
theorem rdhexAnswersCharacter : Obligations.RdhexAnswersCharacter := by
  intro j s hp
  refine ⟨_, exec_rdhex j hp, by simp [keepsBut_iff], ?_⟩
  rw [← s.hexNibble_eq_of_parity]
  rfl

end Sys2Proof.Machine
end

section
/-! PROOFS, the control commands INIT and RDSTAT (44_entry_point R190, R191): what a new hash starts from, and the words the
status can be. -/

namespace Sys2Proof.Machine

/-- Settles O12: every register it names is written once, and the status reads three of them. -/
theorem initBeginsNewHash : Obligations.InitBeginsNewHash := by
  intro s hd
  refine ⟨_, exec_init hd, rfl, rfl, rfl, rfl, rfl, rfl, rfl, rfl, fun i => by simp, rfl, rfl, rfl, rfl, rfl, rfl, rfl, rfl,
    rfl, State.respondStatus_rsp _, fun hc => ?_, by simp [keepsBut_iff]⟩
  simp [State.status, State.dv, State.flt, hc]

/-- Settles O16: it is `exec_rdstat`, and a response is no register. -/
theorem rdstatAnswersStatus : Obligations.RdstatAnswersStatus := fun _ hr =>
  ⟨_, exec_rdstat hr, rfl, by simp [keepsBut_iff]⟩

/-- No fault is noted outside FAULT (R45 item 7). -/
theorem CoreInv.fcode_eq_zero {s : State} (hs : CoreInv s) (hp : s.phase ≠ Phase.fault) : s.fcode = 0 :=
  by_contra fun hc => hp (hs.fcode_iff.1 hc)

/-- Settles O17: outside FAULT the code is 0, and in IDLE and DONE so is the fill level. -/
theorem rdstatWordsByPhase : Obligations.RdstatWordsByPhase := by
  intro s hs hr
  refine ⟨_, exec_rdstat hr, fun hp => ?_, fun hp => ?_, fun hp => ?_, fun hp => ⟨?_, ?_, hs.fcode_le⟩⟩
  · obtain ⟨hfill, -⟩ := hs.idle_state hp
    have hc := hs.fcode_eq_zero (by rw [hp]; decide)
    simp [State.status, State.dv, State.flt, hp, hfill, hc]
  · have hc := hs.fcode_eq_zero (by rw [hp]; decide)
    simp [State.status, State.dv, State.flt, hp, hc]
  · obtain ⟨hfill, -⟩ := hs.done_state hp
    have hc := hs.fcode_eq_zero (by rw [hp]; decide)
    simp [State.status, State.dv, State.flt, hp, hfill, hc]
  · simp [State.status, State.dv, State.flt, hp]
  · have hc := hs.fcode_iff.2 hp
    bv_omega

end Sys2Proof.Machine
end

section
/-! PROOFS, the phase transition table (60_exceptions R198): the phase that each command and each micro-operation leaves, and
the phase after a step that runs neither. -/

namespace Sys2Proof.Machine

/-! ### Commands -/

/-- In FAULT every command answers the status and changes nothing (60_exceptions R218). -/
theorem exec_cmd_of_fault {i : Instr} (hi : i.format = .cmd) {s : State} (hp : s.phase = Phase.fault) :
    exec i s = .next s.respondStatus := by
  cases i with
  | init | absorb | final | rdstat | rdh | rddig | rdhex =>
    simp only [exec, execInit, execAbsorb, execFinal, execRdstat, execRdh, execRddig, execRdhex]
    exact command_fault hp
  | wload | wext | vinit | round | hfold | pad80 | pad00 | padlen => cases hi

/-- ABSORB by length and fill level (R213, 40_padder R123). -/
theorem absorb_phase {b : Byte} {s t : State} (hp : s.phase = Phase.absorb) (h : exec (.absorb b) s = .next t) :
    t.phase = if s.len.val = lastLen then Phase.fault else if s.fill = 63 then Phase.compress else Phase.absorb := by
  rw [exec_absorb b hp] at h
  cases h
  split
  · rfl
  · exact (bufAppend_phase _ b).trans (by rw [State.setLen_phase, hp, State.setLen_fill])

/-- A read where it is admitted changes the response alone. -/
theorem read_phase {i : Instr} (hi : reads i = true) {s t : State} (hd : Decodes s.phase) (ha : admits i s.phase = true)
    (h : exec i s = .next t) : t.phase = s.phase := by
  obtain ⟨w, hw⟩ := exec_read hi hd ha
  cases h.symm.trans (hw s.rsp)
  rfl

/-- A phase that admits a read other than RDSTAT decodes words. -/
theorem decodes_of_admits_read {i : Instr} (hi : (∃ k, i = .rdh k) ∨ (∃ k, i = .rddig k) ∨ ∃ k, i = .rdhex k)
    {p : BitVec 3} (ha : admits i p = true) : reads i = true ∧ Decodes p := by
  rcases hi with ⟨k, rfl⟩ | ⟨k, rfl⟩ | ⟨k, rfl⟩
  · exact ⟨rfl, .inr (by simpa [admits] using ha)⟩
  · exact ⟨rfl, .inr (.inr (by simpa [admits] using ha))⟩
  · exact ⟨rfl, .inr (.inr (by simpa [admits] using ha))⟩

/-! ### Micro-operations -/

/-- The stages before HFOLD stay in COMPRESS (41_compressor R150 to R153). -/
theorem MicroResult.phase_of_stage {i : Instr} {s t : State} (h : MicroResult s i t)
    (hi : i = .wload ∨ i = .wext ∨ i = .vinit ∨ i = .round) : t.phase = Phase.compress := by
  cases h with
  | wload | wextLast | vinit | roundLast => rfl
  | wextMore hp | roundMore hp => exact hp
  | hfold | padlenMore | padlenLast => simp at hi
  | padByte hpad => rcases hpad with ⟨rfl, -⟩ | ⟨rfl, -⟩ <;> simp at hi

/-- The padder stays in PAD until a byte fills the block (40_padder R123). -/
theorem MicroResult.phase_of_pad {i : Instr} {s t : State} (h : MicroResult s i t)
    (hi : i = .pad80 ∨ i = .pad00 ∨ i = .padlen) : t.phase = if s.fill = 63 then Phase.compress else Phase.pad := by
  cases h with
  | wload | wextMore | wextLast | vinit | roundMore | roundLast | hfold => simp at hi
  | padByte _ hp | padlenMore hp | padlenLast hp => exact (bufAppend_phase s _).trans (by rw [hp])

/-! ### Steps that run no instruction -/

theorem acceptStep_fault (c : CmdWord) {s : State} (hp : s.phase = Phase.fault) :
    acceptStep c s = .next s.respondStatus := if_pos hp

/-- A word that is not legal raises ILLEGAL_CMD where words are decoded (R211). -/
theorem acceptStep_illegal {c : CmdWord} (hc : legal c = false) {s : State} (hf : s.phase ≠ Phase.fault) :
    acceptStep c s = .next (s.raise .illegalCmd) := by
  rw [acceptStep, if_neg hf]
  split
  · rename_i i hi
    rw [(legal_iff_decodeCmd_ok c).2 ⟨i, hi⟩] at hc
    cases hc
  · rfl

/-- A busy port holds the command offered: no response, and the word is offered on (70_reset R244). -/
theorem step_of_held {s t : State} {c : CmdWord} {rest : List HostInput} (ho : Offers s c rest)
    (hb : seqBusy s.phase = true) (h : step s = .next t) :
    t.rsp = none ∧ ∃ r resets, t.host = ⟨r, some ⟨c, resets⟩⟩ :: rest := by
  obtain ⟨resets, hh⟩ := ho
  rw [step_of_not_ready (by simp [NoResetNow, hh]) (cmdReady_eq_false_of_seqBusy hb)] at h
  rcases quietStep_cases h with ⟨-, i, hd, he⟩ | ⟨hb', -⟩
  · refine ⟨microOp_silent (decodeSel_format hd) he, ?_⟩
    rw [microOp_host (decodeSel_format hd) he, hh]
    cases resets with
    | nil => exact ⟨false, [], rfl⟩
    | cons r later => exact ⟨r, later, rfl⟩
  · exact absurd (hb.symm.trans hb') (by decide)

/-- Settles O55, row by row. -/
theorem phaseTransitionTable : Obligations.PhaseTransitionTable := by
  refine ⟨fun i s t h => ⟨?_, ?_, ?_, ?_, ?_, ?_, ?_, ?_, ?_, ?_⟩, fun s t h => ⟨?_, fun c rest ho => ⟨?_, ?_, ?_⟩⟩⟩
  · intro hi hd ha
    cases h.symm.trans (exec_wrongPhase hi hd ha)
    rfl
  · rintro hd rfl
    cases h.symm.trans (exec_init hd)
    rfl
  · rintro hd rfl
    exact read_phase rfl hd rfl h
  · rintro hp b rfl
    exact absorb_phase hp h
  · rintro hp rfl
    cases h.symm.trans (exec_final hp)
    rfl
  · intro ha hi
    obtain ⟨hread, hd⟩ := decodes_of_admits_read hi ha
    exact read_phase hread hd ha h
  · intro hi hp
    cases h.symm.trans (exec_cmd_of_fault hi hp)
    exact hp
  · exact fun hd hi => (exec_microResult hd h).phase_of_stage hi
  · rintro rfl
    cases h.symm.trans (exec_hfold s)
    rfl
  · exact fun hd hi => (exec_microResult hd h).phase_of_pad hi
  · intro o rest hh
    cases h.symm.trans (step_of_reset hh)
    rfl
  · intro hd hc
    obtain ⟨hr, -, hf⟩ := hd.ready
    cases h.symm.trans ((step_of_accepted ho hr).trans (acceptStep_illegal hc hf))
    rfl
  · intro hp
    cases h.symm.trans ((step_of_accepted ho (by rw [hp]; rfl)).trans (acceptStep_fault c (s := s.setHost rest) hp))
    exact hp
  · exact fun hb => step_of_held ho hb h

end Sys2Proof.Machine
end

section
/-! PROOFS, how long a hold lasts (70_reset_and_hazards R244, 40_padder R130): the sequencer's remaining steps are counted by
PHASE, STAGE, T, FIN, PS and FILL, and every micro-operation counts them down by one. -/

namespace Sys2Proof.Machine

/-- The micro-operations that COMPRESS still has to do for its block, the one it stands at included. -/
def blockLeft (stage : BitVec 3) (t : BitVec 6) : Nat :=
  if stage = Stage.wload then 115 else if stage = Stage.wext then 130 - t.toNat
  else if stage = Stage.vinit then 66 else if stage = Stage.round then 65 - t.toNat else 1

/-- The micro-operations from a point in PAD to DONE: one a byte, and 115 a block that fills. A marker or zero byte from fill
level 56 on belongs to the block before the last. -/
def padLeft (fill : BitVec 6) (ps : BitVec 2) : Nat :=
  if fill.toNat ≤ 55 ∨ ps = PadStage.length then 179 - fill.toNat else 358 - fill.toNat

/-- The micro-operations before the port is ready again: none where it is ready, those of the block in COMPRESS, and those of
the padding where it is not over. -/
def holdLeft (s : State) : Nat :=
  if s.phase = Phase.compress then
    blockLeft s.stage.val s.t.val + if phaseAfterFold s.fin.val s.ps.val = Phase.pad then padLeft s.fill s.ps.val else 0
  else if s.phase = Phase.pad then padLeft s.fill s.ps.val else 0

theorem holdLeft_compress {s : State} (hp : s.phase = Phase.compress) : holdLeft s = blockLeft s.stage.val s.t.val +
    if phaseAfterFold s.fin.val s.ps.val = Phase.pad then padLeft s.fill s.ps.val else 0 := if_pos hp

theorem holdLeft_pad {s : State} (hp : s.phase = Phase.pad) : holdLeft s = padLeft s.fill s.ps.val := by
  rw [holdLeft, if_neg (by rw [hp]; decide), if_pos hp]

theorem holdLeft_ready {s : State} (hr : cmdReady s.phase = true) : holdLeft s = 0 := by
  have hb := seqBusy_eq_false_of_cmdReady hr
  simp only [seqBusy, Bool.or_eq_false_iff, beq_eq_false_iff_ne] at hb
  rw [holdLeft, if_neg hb.1, if_neg hb.2]

theorem blockLeft_le (stage : BitVec 3) (t : BitVec 6) (h : stage = Stage.wext → 16 ≤ t) : blockLeft stage t ≤ 115 := by
  unfold blockLeft
  split_ifs with h0 h1
  · omega
  · have := h h1
    bv_omega
  all_goals omega

theorem padLeft_le (fill : BitVec 6) (ps : BitVec 2) : padLeft fill ps ≤ 302 := by
  unfold padLeft
  split_ifs <;> omega

theorem holdLeft_pos {s : State} (hb : seqBusy s.phase = true) : 0 < holdLeft s := by
  rcases compress_or_pad_of_seqBusy hb with hp | hp
  · have hblock : 0 < blockLeft s.stage.val s.t.val := by
      unfold blockLeft
      split_ifs <;> omega
    rw [holdLeft_compress hp]
    omega
  · rw [holdLeft_pad hp]
    unfold padLeft
    split_ifs <;> omega

/-- The bound of R244. -/
theorem CoreInv.holdLeft_le {s : State} (hs : CoreInv s) (hb : seqBusy s.phase = true) : holdLeft s ≤ 302 := by
  rcases compress_or_pad_of_seqBusy hb with hp | hp
  · have hblock := blockLeft_le s.stage.val s.t.val fun hst => (hs.wext_ready hp hst).1
    rw [holdLeft_compress hp, (hs.buffer_full hp).2]
    have : padLeft 0 s.ps.val = 179 := if_pos (.inl (by decide))
    split <;> omega
  · rw [holdLeft_pad hp]
    exact padLeft_le ..

/-- In COMPRESS a stage before HFOLD does not touch what decides what comes after the block. -/
theorem holdLeft_stage {s t : State} (hp : s.phase = Phase.compress) (ht : t.phase = Phase.compress)
    (hk : KeepsBut blockRegs s t)
    (h : blockLeft t.stage.val t.t.val + 1 = blockLeft s.stage.val s.t.val) : holdLeft t + 1 = holdLeft s := by
  rw [holdLeft_compress hp, holdLeft_compress ht, hk.fin_eq, hk.ps_eq, hk.fill_eq]
  omega

/-- A padding byte is one of those that were left, and where it fills a block the compression's are the next. -/
theorem holdLeft_append {x : Byte} {s t : State} (ha : Appended x s t) (hp : s.phase = Phase.pad) (hfin : t.fin.val = 1)
    (hroom : s.fill ≠ 63 → padLeft (s.fill + 1) t.ps.val + 1 = padLeft s.fill s.ps.val)
    (hfull : s.fill = 63 → (t.ps.val = PadStage.ended ↔ s.ps.val = PadStage.length)) : holdLeft t + 1 = holdLeft s := by
  have hnext := ha.next
  rw [holdLeft_pad hp]
  by_cases h63 : s.fill = 63
  · rw [if_pos h63] at hnext
    obtain ⟨htp, hst, ht⟩ := hnext
    have table : ∀ q q' : BitVec 2, (q' = PadStage.ended ↔ q = PadStage.length) →
        115 + (if phaseAfterFold 1 q' = Phase.pad then padLeft 0 q' else 0) + 1 = padLeft 63 q := by decide
    rw [holdLeft_compress htp, hst, ht, hfin, ha.fill, h63]
    exact table _ _ (hfull h63)
  · rw [if_neg h63] at hnext
    rw [holdLeft_pad (hnext.1.trans hp), ha.fill]
    exact hroom h63

/-- A marker or zero byte in a block with room: the length field is next at fill level 56 (40_padder R126, R127). -/
theorem padLeft_padByte {f : BitVec 6} {q : BitVec 2} (hf : f ≠ 63) (hq : q ≠ PadStage.length) :
    padLeft (f + 1) (padStageAt (f + 1)) + 1 = padLeft f q := by
  revert f q; decide

/-- A length byte before the last. -/
theorem padLeft_length {f : BitVec 6} (hf : f ≠ 63) : padLeft (f + 1) PadStage.length + 1 = padLeft f PadStage.length := by
  revert f; decide

/-- Every micro-operation is one of those that were left. -/
theorem MicroResult.holdLeft_succ {i : Instr} {s t : State} (hs : CoreInv s) (h : MicroResult s i t) :
    holdLeft t + 1 = holdLeft s := by
  cases h with
  | wload hp hst => exact holdLeft_stage hp rfl (by simp [keepsBut_iff, hp]) (by rw [hst]; rfl)
  | wextMore hp hst h16 h63 =>
    refine holdLeft_stage hp hp (by simp [keepsBut_iff]) ?_
    show blockLeft s.stage.val (s.t.val + 1) + 1 = _
    rw [hst]
    show 130 - (s.t.val + 1).toNat + 1 = 130 - s.t.val.toNat
    bv_omega
  | wextLast hp hst h63 => exact holdLeft_stage hp rfl (by simp [keepsBut_iff, hp]) (by rw [hst, h63]; rfl)
  | vinit hp hst => exact holdLeft_stage hp rfl (by simp [keepsBut_iff, hp]) (by rw [hst]; rfl)
  | roundMore hp hst h63 =>
    refine holdLeft_stage hp hp (by simp [keepsBut_iff]) ?_
    show blockLeft s.stage.val (s.t.val + 1) + 1 = _
    rw [hst]
    show 65 - (s.t.val + 1).toNat + 1 = 65 - s.t.val.toNat
    bv_omega
  | roundLast hp hst h63 => exact holdLeft_stage hp rfl (by simp [keepsBut_iff, hp]) (by rw [hst, h63]; rfl)
  | hfold hp hst =>
    rw [holdLeft_compress hp, hst, show blockLeft Stage.hfold s.t.val = 1 from rfl]
    split
    case isTrue hpad =>
      exact (congrArg (· + 1) (holdLeft_pad hpad)).trans (Nat.add_comm ..)
    case isFalse hpad =>
      rw [holdLeft_ready]
      rcases phaseAfterFold_cases s.fin.val s.ps.val with h | h | ⟨h, -⟩
      · exact congrArg cmdReady h
      · exact absurd h hpad
      · exact congrArg cmdReady h
  | padByte hi hp hps =>
    refine holdLeft_append (((appended_bufAppend s _).setPs _).setRsp none) hp (by simpa using (hs.pad_state hp).1)
      (fun h63 => padLeft_padByte h63 hps) fun h63 => iff_of_false ?_ hps
    show padStageAt (s.fill + 1) ≠ _
    rw [h63]
    decide
  | padlenMore hp hps h7 =>
    have hfill := hs.length_fill hp hps
    refine holdLeft_append (((appended_bufAppend s _).setLk _).setRsp none) hp (by simpa using (hs.pad_state hp).1)
      (fun h63 => ?_) fun h63 => by bv_omega
    simpa [hps] using padLeft_length h63
  | padlenLast hp hps h7 =>
    have hfill := hs.length_fill hp hps
    exact holdLeft_append (((appended_bufAppend s _).setPs _).setRsp none) hp (by simpa using (hs.pad_state hp).1)
      (fun h63 => by bv_omega) fun _ => iff_of_true rfl hps

theorem MicroResult.busy_or_ready {i : Instr} {s t : State} (h : MicroResult s i t) :
    seqBusy t.phase = true ∨ t.phase = Phase.absorb ∨ t.phase = Phase.done := by
  rcases h.phase_cases with (hp | hp) | ⟨-, -, hp⟩
  · exact .inl (by rw [hp]; rfl)
  · exact .inl (by rw [hp]; rfl)
  · rcases phaseAfterFold_cases s.fin.val s.ps.val with hf | hf | ⟨hf, -⟩
    · exact .inr (.inl (hp.trans hf))
    · exact .inl (by rw [hp, hf]; rfl)
    · exact .inr (.inr (hp.trans hf))

/-- While the host waits, a busy sequencer's step is a micro-operation that the invariant makes possible (R45, R158). -/
theorem CoreInv.micro_step {s : State} (hs : CoreInv s) (hw : HostWaits s) (hb : seqBusy s.phase = true) :
    ∃ i t, step s = .next t ∧ MicroResult s i t ∧ t.host = s.host := by
  obtain ⟨i, hd⟩ := hs.decodeSel_ok hb
  have hf := decodeSel_format hd
  obtain ⟨t, he⟩ := exec_goesOn_of_seq hf fun hi => hs.wext_operand (hi ▸ hd)
  exact ⟨i, t, (step_waiting hw hb hd).trans he, exec_microResult hd he, microOp_host hf he⟩

/-- A hold lasts for exactly the micro-operations that are left, and ends in ABSORB or DONE with the host as it was. -/
theorem hold_run (n : Nat) {s : State} (hs : CoreInv s) (hw : HostWaits s) (hn : holdLeft s = n)
    (hp : seqBusy s.phase = true ∨ s.phase = Phase.absorb ∨ s.phase = Phase.done) :
    ∃ t, steps n s = .next t ∧ (t.phase = Phase.absorb ∨ t.phase = Phase.done) ∧ t.host = s.host := by
  induction n generalizing s with
  | zero =>
    have hidle : ¬ seqBusy s.phase = true := fun hb => (holdLeft_pos hb).ne' hn
    exact ⟨s, rfl, hp.resolve_left hidle, rfl⟩
  | succ n ih =>
    have hb : seqBusy s.phase = true := hp.resolve_right fun h => by
      have hr : cmdReady s.phase = true := by rcases h with h | h <;> rw [h] <;> rfl
      exact absurd ((holdLeft_ready hr).symm.trans hn) (Nat.succ_ne_zero n).symm
    obtain ⟨i, t, hstep, hi, hhost⟩ := hs.micro_step hw hb
    have hleft := hi.holdLeft_succ hs
    obtain ⟨u, hrun, hu, huh⟩ := ih (hi.inv hs) (hw.of_host_eq hhost) (by omega) hi.busy_or_ready
    exact ⟨u, (steps_succ hstep n).trans hrun, hu, huh.trans hhost⟩

end Sys2Proof.Machine
end

section
/-! PROOFS, the procedure digestHex (44_entry_point R192): one response a command, the 64 reads, and the string they give. -/

namespace Sys2Proof.Machine

/-! ### One response a command (00_scope R14, 30_encoding R93) -/

theorem command_responds {adm : BitVec 3 → Bool} {body : State → State} {s t : State} (hr : cmdReady s.phase = true)
    (hbody : ∃ r, (body s).rsp = some r) (h : command adm body s = .next t) : ∃ r, t.rsp = some r := by
  rcases command_cases h with ⟨-, rfl⟩ | ⟨hb, -⟩ | ⟨-, -, rfl⟩ | ⟨-, -, rfl⟩
  · exact ⟨_, rfl⟩
  · exact absurd (hb.symm.trans (seqBusy_eq_false_of_cmdReady hr)) (by decide)
  · exact hbody
  · exact ⟨_, rfl⟩

theorem exec_cmd_responds {i : Instr} (hi : i.format = .cmd) {s t : State} (hr : cmdReady s.phase = true)
    (h : exec i s = .next t) : ∃ r, t.rsp = some r := by
  cases i with
  | wload | wext | vinit | round | hfold | pad80 | pad00 | padlen => cases hi
  | init | final | rdstat | rdh | rddig | rdhex =>
    simp only [exec, execInit, execFinal, execRdstat, execRdh, execRddig, execRdhex] at h
    exact command_responds hr ⟨_, rfl⟩ h
  | absorb b =>
    simp only [exec, execAbsorb] at h
    refine command_responds hr ?_ h
    split <;> exact ⟨_, rfl⟩

/-- An accepted word gets its response, and the host's list is not the word's to change. -/
theorem acceptStep_responds {c : CmdWord} {s t : State} (hr : cmdReady s.phase = true) (h : acceptStep c s = .next t) :
    (∃ r, t.rsp = some r) ∧ t.host = s.host := by
  rcases acceptStep_cases h with ⟨-, rfl⟩ | ⟨-, i, hd, he⟩ | ⟨-, -, rfl⟩
  · exact ⟨⟨_, rfl⟩, rfl⟩
  · have hf := decodeCmd_format hd
    exact ⟨exec_cmd_responds hf hr he, ((exec_commandResult hf he).frame hf).host_eq⟩
  · exact ⟨⟨_, rfl⟩, rfl⟩

theorem quietStep_silent {s t : State} (h : quietStep s = .next t) : t.rsp = none ∧ t.host = s.host := by
  rcases quietStep_cases h with ⟨-, i, hd, he⟩ | ⟨-, -, rfl⟩
  · exact ⟨microOp_silent (decodeSel_format hd) he, microOp_host (decodeSel_format hd) he⟩
  · exact ⟨rfl, rfl⟩

/-- The host offers commands, one after another, and never asserts reset. -/
def OffersOnly (l : List HostInput) : Prop := ∀ x ∈ l, ∃ c, x = offer c

theorem OffersOnly.waiting {l : List HostInput} (h : OffersOnly l) : Waiting l := by
  cases l with
  | nil => exact .inl rfl
  | cons x l =>
    obtain ⟨c, rfl⟩ := h x (List.mem_cons_self ..)
    exact waiting_offer c l

/-- A step gives a response exactly when it takes a command off the host's list. -/
theorem step_rsp_count {s t : State} (ho : OffersOnly s.host) (h : step s = .next t) :
    OffersOnly t.host ∧ t.rsp.toList.length + t.host.length = s.host.length := by
  have hw : HostWaits s := ho.waiting.hostWaits rfl
  rcases step_cases h with ⟨⟨o, rest, hh⟩, -⟩ | ⟨c, rest, ⟨resets, hh⟩, hr, ha⟩ | ⟨-, hq⟩
  · rw [hh] at ho
    obtain ⟨c, hc⟩ := ho _ (List.mem_cons_self ..)
    exact absurd (congrArg HostInput.reset hc) (by simp [offer])
  · obtain ⟨⟨r, hrsp⟩, hhost⟩ := acceptStep_responds (s := s.setHost rest) hr ha
    rw [hh] at ho ⊢
    rw [hrsp, hhost]
    exact ⟨fun x hx => ho x (List.mem_cons_of_mem _ hx), Nat.add_comm ..⟩
  · obtain ⟨hrsp, hhost⟩ := quietStep_silent hq
    rw [State.setHost_host, hw.passed_host] at hhost
    rw [hrsp, hhost]
    exact ⟨ho, Nat.zero_add _⟩

/-- The first step of a run that goes on. -/
theorem steps_succ_cases {n : Nat} {s t : State} (h : steps (n + 1) s = .next t) :
    ∃ u, step s = .next u ∧ steps n u = .next t := by
  rw [steps] at h
  split at h
  · rename_i u hu
    exact ⟨u, hu, h⟩
  · cases h
  · cases h

/-- A run gives as many responses as it takes commands off the host's list. -/
theorem responses_count (n : Nat) {s t : State} (ho : OffersOnly s.host) (h : steps n s = .next t) :
    (responses n s).length + t.host.length = s.host.length := by
  induction n generalizing s with
  | zero =>
    rw [steps_zero] at h
    cases h
    exact Nat.zero_add _
  | succ n ih =>
    obtain ⟨u, hstep, hrun⟩ := steps_succ_cases h
    obtain ⟨hou, hcount⟩ := step_rsp_count ho hstep
    rw [responses_succ hstep, List.length_append, Nat.add_assoc, ih hou hrun, hcount]

/-! ### The 64 reads -/

@[simp] theorem length_readHex : readHex.length = 64 := by simp [readHex]

@[simp] theorem length_hexString (m : List Byte) : (hexString m).length = 64 := by simp [hexString]

theorem hexString_getD (m : List Byte) (j : BitVec 6) : (hexString m).getD j.toNat 0 = hexDigit (hashOf m) j.toNat := by
  rw [hexString, List.getD_eq_getElem _ _ (by simpa using j.isLt), List.getElem_map, List.getElem_range]

theorem readHex_drop (j : BitVec 6) : readHex.drop j.toNat = offer (wordRdhex j.toNat) :: readHex.drop (j.toNat + 1) := by
  rw [List.drop_eq_getElem_cons (by simpa using j.isLt)]
  simp [readHex]

/-- The digest of `m` stands in DONE, and the host goes on with read `j`. -/
structure Reading (m : List Byte) (j : Nat) (s : State) : Prop where
  phase : s.phase = Phase.done
  hash : s.hWords = hashOf m
  host : s.host = readHex.drop j

/-- Read `j` answers character `j` (43_hex_encoder R182). -/
theorem Reading.read {m : List Byte} {j : Nat} {s : State} (hs : Reading m j s) (hj : j < 64) :
    ∃ t, step s = .next t ∧ Reading m (j + 1) t ∧ t.rsp = some (((hexString m).getD j 0).setWidth 32) := by
  obtain ⟨i, rfl⟩ : ∃ i : BitVec 6, j = i.toNat := ⟨BitVec.ofNat 6 j, (Nat.mod_eq_of_lt hj).symm⟩
  obtain ⟨-, hhex⟩ := viewsAreTheDigestValue s
  have hchar : s.hex i = (hexString m).getD i.toNat 0 := by rw [hhex, hs.hash, hexString_getD]
  refine ⟨_, step_offer (hs.host.trans (readHex_drop i)) (.inr (.inr hs.phase)) (encode_rdhex i)
    (exec_rdhex i hs.phase), ⟨hs.phase, hs.hash, rfl⟩, ?_⟩
  rw [← hchar]
  rfl

theorem Reading.run {m : List Byte} {s : State} (hs : Reading m 0 s) {k : Nat} (hk : k ≤ 64) :
    ∃ t, steps k s = .next t ∧ Reading m k t ∧ responses k s = ((hexString m).take k).map (·.setWidth 32) := by
  induction k with
  | zero => exact ⟨s, rfl, hs, rfl⟩
  | succ k ih =>
    obtain ⟨t, hrun, ht, hrsp⟩ := ih (by omega)
    obtain ⟨u, hstep, hu, hursp⟩ := ht.read hk
    refine ⟨u, (steps_add hrun 1).trans (steps_succ hstep 0), hu, ?_⟩
    rw [responses_add hrun, responses_succ hstep, hrsp, hursp, List.take_succ_eq_append_getElem (by simpa using hk),
      List.map_append, List.getD_eq_getElem]
    rfl

/-! ### The procedure -/

theorem digestHexInputs_ok {m : List Byte} {s : State} (hm : m.length ≤ Config.maxMsgBytes) (hf : s.phase ≠ Phase.fault) :
    digestHexInputs (some m) s = .ok (hashInputs m ++ readHex) :=
  (digestHexInputs_eq m hf).trans (hashCommands_short hm)

theorem of_digestHexInputs_ok {m : List Byte} {s : State} {ins : List HostInput} (h : digestHexInputs (some m) s = .ok ins)
    (hf : s.phase ≠ Phase.fault) : m.length ≤ Config.maxMsgBytes ∧ ins = hashInputs m ++ readHex := by
  by_cases hm : m.length ≤ Config.maxMsgBytes
  · rw [digestHexInputs_ok hm hf] at h
    cases h
    exact ⟨hm, rfl⟩
  · rw [digestHexInputs_eq m hf, hashCommands_long (Nat.lt_of_not_le hm)] at h
    cases h

theorem length_hashInputs (m : List Byte) : (hashInputs m).length = m.length + 2 := by simp [hashInputs, absorbAll]

theorem offersOnly_procedure (m : List Byte) : OffersOnly (hashInputs m ++ readHex) := by
  intro x hx
  simp only [hashInputs, absorbAll, readHex, List.cons_append, List.nil_append, List.append_assoc, List.mem_cons,
    List.mem_append, List.mem_map] at hx
  rcases hx with rfl | ⟨b, -, rfl⟩ | rfl | ⟨j, -, rfl⟩ <;> exact ⟨_, rfl⟩

/-- The hash of the procedure: the steps of R250, the responses to INIT, the ABSORBs and FINAL, and then the reads. -/
theorem procedure_hash_run {m : List Byte} {s : State} (hm : m.length ≤ Config.maxMsgBytes) (hd : Decodes s.phase)
    (hh : s.host = hashInputs m ++ readHex) : ∃ t, steps (m.length + 2 + hashUops m.length) s = .next t ∧
      Reading m 0 t ∧ (responses (m.length + 2 + hashUops m.length) s).length = m.length + 2 := by
  obtain ⟨t, hrun, hp, hhash, -, -, hth⟩ := hashOfEveryMessage m s readHex hm hd hh (.inr ⟨_, _, rfl⟩)
  have hcount := responses_count _ (hh ▸ offersOnly_procedure m) hrun
  rw [hh, hth, List.length_append, length_hashInputs] at hcount
  exact ⟨t, hrun, ⟨hp, hhash, hth⟩, Nat.add_right_cancel hcount⟩

/-- A hold of the procedure's first command: at most 302 steps without a response, and then a phase that decodes it. -/
theorem procedure_hold_run {m : List Byte} {s : State} (hp : Decodes s.phase ∨ (CoreInv s ∧ seqBusy s.phase = true))
    (hh : s.host = hashInputs m ++ readHex) : ∃ k t, k ≤ 302 ∧ steps k s = .next t ∧ Decodes t.phase ∧
      t.host = hashInputs m ++ readHex ∧ responses k s = [] := by
  rcases hp with hd | ⟨hs, hb⟩
  · exact ⟨0, s, by omega, rfl, hd, hh, rfl⟩
  · have ho : OffersOnly s.host := hh ▸ offersOnly_procedure m
    obtain ⟨t, hrun, ht, hth⟩ := hold_run _ hs (ho.waiting.hostWaits rfl) rfl (.inl hb)
    have hcount := responses_count _ ho hrun
    rw [hth] at hcount
    exact ⟨_, t, hs.holdLeft_le hb, hrun, .inr ht, hth.trans hh, List.eq_nil_of_length_eq_zero (by omega)⟩

/-- The characters are the low bytes of the 64 responses after the first `n + 2`. -/
theorem hexOfResponses_append {m : List Byte} {n : Nat} {a b : List Word} (ha : a.length = n + 2) :
    hexOfResponses n (a ++ ((hexString m).map (·.setWidth 32) ++ b)) = hexString m := by
  have hlow (x : Byte) : (x.setWidth 32).extractLsb' 0 8 = x := by
    rw [← BitVec.setWidth_eq_extractLsb' (by decide), BitVec.setWidth_setWidth_of_le _ (by decide), BitVec.setWidth_eq]
  rw [hexOfResponses, List.drop_left' ha, List.take_left' (by simp), List.map_map]
  exact List.map_id'' hlow _

theorem digestHex_eq_hexString {m : List Byte} {s : State} (hm : m.length ≤ Config.maxMsgBytes)
    (hp : Decodes s.phase ∨ (CoreInv s ∧ seqBusy s.phase = true)) : digestHex (some m) s = .ok (hexString m) := by
  have hf : s.phase ≠ Phase.fault := by
    rcases hp with hd | ⟨-, hb⟩
    · exact hd.ready.2.2
    · rintro hf
      rw [hf] at hb
      cases hb
  obtain ⟨k, u, hk, hhold, hd, hh, hnone⟩ := procedure_hold_run (m := m) (s := s.setHost (hashInputs m ++ readHex))
    (hp.imp_right fun ⟨hs, hb⟩ => ⟨hs.setHost _, hb⟩) rfl
  obtain ⟨t, hhash, ht, hcount⟩ := procedure_hash_run hm hd hh
  obtain ⟨v, hread, -, hchars⟩ := ht.run le_rfl
  rw [List.take_of_length_le (by simp)] at hchars
  have hsteps : procedureSteps m.length = k + (m.length + 2 + hashUops m.length + (64 + (302 - k))) := by
    unfold procedureSteps
    omega
  rw [digestHex_ok (digestHexInputs_ok hm hf), hsteps, responses_add hhold, hnone, List.nil_append, responses_add hhash,
    responses_add hread, hchars, hexOfResponses_append hcount]

/-- Settles O60: the reads follow the hash of the message, and a hold before it gives no response. -/
theorem digestHexAnswersHexString : Obligations.DigestHexAnswersHexString := by
  refine ⟨fun m s hm hf => digestHexInputs_ok hm hf, fun m s ins hins hd hh j hj => ?_,
    fun m s => digestHex_eq_hexString, fun m s hf => digestHex_error (digestHexInputs_fault m hf),
    fun m s hf hm => digestHex_error ((digestHexInputs_eq m hf).trans (hashCommands_long hm)), fun s => rfl⟩
  obtain ⟨hm, rfl⟩ := of_digestHexInputs_ok hins hd.ready.2.2
  obtain ⟨t, hhash, ht, -⟩ := procedure_hash_run hm hd hh
  obtain ⟨u, hreads, hu, -⟩ := ht.run (Nat.le_of_lt hj)
  obtain ⟨v, hstep, hv, hrsp⟩ := hu.read hj
  exact ⟨v, by rw [steps_add hhash, steps_add hreads, steps_succ hstep, steps_zero], hrsp, hv.phase⟩

end Sys2Proof.Machine
end

section
/-! PROOFS, the faults (60_exceptions R211 to R218): which commands raise one and which one, and what a CORE in FAULT still
does. -/

namespace Sys2Proof.Machine

/-- The status word in FAULT: DV is 0, FLT is 1 and PHASE is 5 (R34, R218). -/
theorem State.status_of_fault {s : State} (hp : s.phase = Phase.fault) :
    s.status = 0x15 ||| (s.fcode.setWidth 32 <<< 8) ||| (s.fill.setWidth 32 <<< 16) := by
  simp [State.status, State.dv, State.flt, hp]

/-! ### Which commands fault -/

/-- ABSORB at the last length is fault entry and nothing else (R213). -/
theorem exec_absorb_overflow (b : Byte) {s : State} (hp : s.phase = Phase.absorb) (hl : s.len.val = lastLen) :
    exec (.absorb b) s = .next (s.raise .lenOverflow) := by
  rw [exec_absorb b hp, if_pos hl]

/-- A command where it is admitted goes on outside FAULT, but for ABSORB at the last length (R212, R213). -/
theorem exec_admitted_cases {i : Instr} {s : State} (hd : Decodes s.phase) (ha : admits i s.phase = true) :
    (∃ t, exec i s = .next t ∧ t.phase ≠ Phase.fault) ∨
      ((∃ b, i = .absorb b) ∧ s.len.val = lastLen ∧ exec i s = .next (s.raise .lenOverflow)) := by
  cases i with
  | wload | wext | vinit | round | hfold | pad80 | pad00 | padlen => cases ha
  | rdstat | rdh | rddig | rdhex =>
    obtain ⟨w, hw⟩ := exec_read rfl hd ha
    exact .inl ⟨s.respond w, hw s.rsp, hd.ready.2.2⟩
  | init => exact .inl ⟨_, exec_init hd, show Phase.absorb ≠ Phase.fault by decide⟩
  | final =>
    have hp : s.phase = Phase.absorb := by simpa [admits] using ha
    exact .inl ⟨_, exec_final hp, show Phase.pad ≠ Phase.fault by decide⟩
  | absorb b =>
    have hp : s.phase = Phase.absorb := by simpa [admits] using ha
    by_cases hl : s.len.val = lastLen
    · exact .inr ⟨⟨b, rfl⟩, hl, exec_absorb_overflow b hp hl⟩
    · refine .inl ⟨_, exec_absorb_appends b hp hl, ?_⟩
      rcases bufAppend_phase_cases (s.setLen (s.len.val + 8)) b with hc | hk
      · exact fun hf => absurd (hc.symm.trans hf) (by decide)
      · exact fun hf => hd.ready.2.2 (hk.symm.trans hf)

/-- A command that leaves a CORE in FAULT has entered it for BAD_PHASE or LEN_OVERFLOW (R215). -/
theorem exec_eq_raise_of_fault {i : Instr} (hi : i.format = .cmd) {s t : State} (hd : Decodes s.phase)
    (h : exec i s = .next t) (ht : t.phase = Phase.fault) : ∃ c : Cause, t = s.raise c := by
  cases ha : admits i s.phase with
  | false =>
    cases h.symm.trans (exec_wrongPhase hi hd ha)
    exact ⟨_, rfl⟩
  | true =>
    rcases exec_admitted_cases hd ha with ⟨u, hu, hne⟩ | ⟨-, -, hraise⟩
    · cases h.symm.trans hu
      exact absurd ht hne
    · cases h.symm.trans hraise
      exact ⟨_, rfl⟩

/-- Settles O14. -/
theorem absorbRaisesLenOverflow : Obligations.AbsorbRaisesLenOverflow := fun b s hp hl =>
  ⟨_, exec_absorb_overflow b hp hl, raise_raised .lenOverflow s, rfl⟩

/-- Settles O21: the phase check comes first, and behind it only ABSORB can fault, for its length. -/
theorem wrongPhaseRaisesBadPhase : Obligations.WrongPhaseRaisesBadPhase := by
  intro i s hi hd
  refine ⟨fun ha => ⟨_, exec_wrongPhase hi hd ha, raise_raised .badPhase s, rfl⟩, fun ha => ?_⟩
  rcases exec_admitted_cases hd ha with ⟨t, ht, hne⟩ | ⟨-, -, hraise⟩
  · exact ⟨t, ht, fun hf => absurd hf hne⟩
  · exact ⟨_, hraise, fun _ => rfl⟩

/-- Settles O24: fault entry is `raise` on the state before, with the status of the state it leaves. -/
theorem faultEntryResponse : Obligations.FaultEntryResponse := by
  refine ⟨fun c s => ⟨raise_raised c s, ?_⟩, fun i s t hi hd h ht => exec_eq_raise_of_fault hi hd h ht⟩
  obtain ⟨hphase, hfcode, hrsp, -⟩ := raise_raised c s
  rw [hrsp, State.status_of_fault hphase, hfcode]
  rfl

/-! ### The word offered -/

/-- A word that is not legal raises ILLEGAL_CMD, whatever the phase among those that decode (R211). -/
theorem step_illegal {s : State} {c : CmdWord} {rest : List HostInput} (ho : Offers s c rest) (hd : Decodes s.phase)
    (hc : legal c = false) : step s = .next ((s.setHost rest).raise .illegalCmd) := by
  obtain ⟨hready, -, hfault⟩ := hd.ready
  exact (step_of_accepted ho hready).trans (acceptStep_illegal hc hfault)

/-- Settles O6. -/
theorem illegalWordRaisesIllegalCmd : Obligations.IllegalWordRaisesIllegalCmd := fun _ _ _ ho hd hc =>
  ⟨_, step_illegal ho hd hc, raise_raised .illegalCmd _, rfl⟩

/-- Settles O22: decoding comes before the phase check, and the phase check before the length. -/
theorem faultPriority : Obligations.FaultPriority := by
  refine ⟨digestHexInputs_none, fun s c rest ho hd => ⟨fun hc => ?_, fun i hi ha => ?_, fun b hb hp hl => ?_,
    fun i hi ha hl => ?_⟩⟩
  · exact ⟨_, step_illegal ho hd hc, raise_raised .illegalCmd _⟩
  · exact ⟨_, (stepRunsOfferedCommand s c rest i ho hd hi).trans (exec_wrongPhase (decodeCmd_format hi) hd ha),
      raise_raised .badPhase _⟩
  · exact ⟨_, (stepRunsOfferedCommand s c rest _ ho hd hb).trans (exec_absorb_overflow b hp hl),
      raise_raised .lenOverflow _⟩
  · rw [stepRunsOfferedCommand s c rest i ho hd hi]
    exact (exec_admitted_cases (s := s.setHost rest) hd ha).resolve_right fun ⟨⟨b, hb⟩, hlast, _⟩ => hl b hb hlast

/-! ### A CORE in FAULT -/

/-- Settles O7: the word is taken and not decoded, and the answer is the status. -/
theorem faultPhaseAnswersEveryWord : Obligations.FaultPhaseAnswersEveryWord := by
  intro s c rest ho hp
  have hstep : step s = .next (s.setHost rest).respondStatus :=
    (step_of_accepted ho (by rw [hp]; rfl)).trans (acceptStep_fault c hp)
  exact ⟨_, hstep, by simp [keepsBut_iff], congrArg some (State.status_of_fault (s := s.setHost rest) hp)⟩

/-- Settles O53: without reset a CORE in FAULT answers a word with its status, or nothing moves. -/
theorem faultIsSticky : Obligations.FaultIsSticky := by
  intro s t hn hp h
  rcases step_cases h with ⟨hreset, -⟩ | ⟨c, rest, -, -, ha⟩ | ⟨-, hq⟩
  · exact absurd hn (not_noResetNow_iff.2 hreset)
  · cases ha.symm.trans (acceptStep_fault c (s := s.setHost rest) hp)
    exact ⟨hp, rfl, rfl⟩
  · have hready : cmdReady (s.setHost (passed s.host)).phase = true := by rw [State.setHost_phase, hp]; rfl
    cases hq.symm.trans (quietStep_ready hready)
    exact ⟨hp, rfl, rfl⟩

end Sys2Proof.Machine
end

section
/-! PROOFS, the copies of a system (60_exceptions R226, 20_memory R82). -/

namespace Sys2Proof.Machine

/-- A copy's step that goes on writes that copy's entry of the system. -/
theorem Cores.stepAt_of_step {n : Nat} {sys : Cores n} {k : Fin n} {t : State} (h : step sys[k] = .next t) :
    sys.stepAt k = .next (sys.set k.val t k.isLt) := by
  rw [Cores.stepAt, h]

/-- Settles O11: one entry of the vector of copies is written. -/
theorem copiesShareNothing : Obligations.CopiesShareNothing := fun _ _ k _ h =>
  ⟨_, Cores.stepAt_of_step h, Vector.getElem_set_self k.isLt,
    fun j hj => Vector.getElem_set_ne k.isLt j.isLt fun hkj => hj (Fin.ext hkj.symm)⟩

end Sys2Proof.Machine
end

section
/-! PROOFS, reset and the hold (70_reset_and_hazards R240, R241, R244): what reset leaves, how a busy port holds a command,
and what ends a hold. -/

namespace Sys2Proof.Machine

/-! ### A hold ends by itself -/

/-- Settles O58: the hold lasts for the micro-operations that are left, and those are at most 302. -/
theorem holdAlwaysEnds : Obligations.HoldAlwaysEnds := fun _ hs hb hw =>
  ⟨_, hs.holdLeft_le hb, hold_run _ hs hw rfl (.inl hb)⟩

/-! ### Reset -/

/-- Settles O1. -/
theorem resetValues : Obligations.ResetValues := by
  refine ⟨rfl, rfl, rfl, rfl, rfl, rfl, fun i => ?_, fun i => ?_, rfl, rfl, rfl, rfl, rfl, rfl⟩
  · simp [State.reset, Reg.noValue]
  · simp [State.reset, Reg.noValue]

/-- Settles O2: the reset event leaves the registers of `State.reset`, whatever the state was. -/
theorem resetWinsOverEverything : Obligations.ResetWinsOverEverything := by
  obtain ⟨hphase, hfcode, hfill, hstatus, -, -, hregs⟩ := resetValues
  exact ⟨fun _ _ _ hh => ⟨_, step_of_reset hh, hphase, hfcode, hfill, hstatus, rfl, hregs⟩,
    fun _ _ hs h ht => step_leaves_fault h hs ht⟩

/-! ### A busy port -/

theorem Offers.noResetNow {s : State} {c : CmdWord} {rest : List HostInput} (h : Offers s c rest) : NoResetNow s := by
  obtain ⟨resets, hh⟩ := h
  simp [NoResetNow, hh]

theorem step_of_busy {s : State} (hn : NoResetNow s) (hb : seqBusy s.phase = true) :
    step s = quietStep (s.setHost (passed s.host)) := step_of_not_ready hn (cmdReady_eq_false_of_seqBusy hb)

/-- The sequencer does not look at the port. -/
theorem quietStep_setHost {s t : State} (hb : seqBusy s.phase = true) (h : quietStep s = .next t) (l : List HostInput) :
    quietStep (s.setHost l) = .next (t.setHost l) := by
  rcases quietStep_cases h with ⟨-, i, hd, he⟩ | ⟨hidle, -⟩
  · exact (quietStep_busy (s := s.setHost l) hb hd).trans (microOp_setHost (decodeSel_format hd) he l)
  · exact absurd (hb.symm.trans hidle) (by decide)

/-- While the sequencer is busy and reset is not asserted, a step is the same whatever is offered: only what the host still
does differs (R244). -/
theorem step_setHost_of_busy {s t : State} (hb : seqBusy s.phase = true) (hn : NoResetNow s) (h : step s = .next t)
    {l : List HostInput} (hl : NoResetNow (s.setHost l)) : step (s.setHost l) = .next (t.setHost (passed l)) := by
  rw [step_of_busy hn hb] at h
  rw [step_of_busy hl hb]
  exact quietStep_setHost (s := s.setHost (passed s.host)) hb h (passed l)

/-- Such a step gives no response, and an offered command stays offered. -/
theorem step_silent_of_busy {s t : State} (hb : seqBusy s.phase = true) (hn : NoResetNow s) (h : step s = .next t) :
    t.rsp = none ∧ t.host = passed s.host :=
  quietStep_silent ((step_of_busy hn hb).symm.trans h)

/-- Settles O8: a busy port's step does not depend on the offer, and the reset that lifts the hold is the next step's. -/
theorem busyPortHoldsCommand : Obligations.BusyPortHoldsCommand := by
  intro s c resets rest hh hb
  have hn : NoResetNow s := Offers.noResetNow ⟨resets, hh⟩
  refine ⟨fun t h => ⟨(step_silent_of_busy (s := s.setHost []) hb trivial h).1, ?_⟩,
    fun t h => step_setHost_of_busy hb hn h (l := []) trivial, ?_⟩
  · have hheld : step s = .next (t.setHost (passed s.host)) :=
      step_setHost_of_busy (s := s.setHost []) hb trivial h (l := s.host) hn
    rw [hheld, hh]
    cases resets <;> rfl
  · rintro later t rfl h
    have hhost : t.host = ⟨true, some ⟨c, later⟩⟩ :: rest := by
      rw [(step_silent_of_busy hb hn h).2, hh, passed_some, stillOffered_cons]
    exact ⟨_, step_of_reset hhost, rfl, rfl, rfl, rfl⟩

end Sys2Proof.Machine
end

section
/-! PROOFS, the model's own choices at the edge of the spec: a command offered together with reset (log 18), a step in which
nobody can move (log 5), and WEXT below its operand range (log 8). -/

namespace Sys2Proof.Machine

/-- Settles O3: the reset event leaves the host's list to `passed`, which keeps an offered command. -/
theorem commandOfferedWithResetStaysOffered : Obligations.CommandOfferedWithResetStaysOffered := by
  intro s c resets rest hh
  have hhost : (s.setHost (passed s.host)).resetEvent.host = stillOffered ⟨c, resets⟩ :: rest := by
    rw [hh, passed_some]
    rfl
  refine ⟨_, step_of_reset hh, rfl, ?_, ?_⟩
  · rintro rfl
    rw [hhost, stillOffered_nil]
  · rintro r later rfl
    rw [hhost, stillOffered_cons]

/-- Where the port is ready and the host neither asserts reset nor offers a word, only the host's moment passes (60_exceptions
R228). -/
theorem step_keeps_of_nothing_offered {s : State} (hr : cmdReady s.phase = true) (hn : NoResetNow s)
    (ho : ∀ c rest, ¬ Offers s c rest) :
    ∃ t, step s = .next t ∧ KeepsBut [] (s.setHost (passed s.host)) t ∧ t.rsp = none :=
  ⟨_, (step_of_quiet hn fun ⟨_, c, rest, h⟩ => ho c rest h).trans (quietStep_ready hr), by simp [keepsBut_iff], rfl⟩

/-- Settles O9: nothing is offered, and what the host still does is what has not passed. -/
theorem nothingMovesUnlessHostActs : Obligations.NothingMovesUnlessHostActs := by
  refine fun s hr => ⟨fun hh => ?_, fun rest hh => ?_⟩ <;>
    have hkeeps := step_keeps_of_nothing_offered hr (by simp [NoResetNow, hh]) (by simp [Offers, hh])
  · rwa [hh, passed_nil, ← hh, State.setHost_host_self] at hkeeps
  · rwa [hh, passed_none] at hkeeps

/-- Settles O30. -/
theorem wextStopsBelowItsRange : Obligations.WextStopsBelowItsRange := fun _ => exec_wext_below

end Sys2Proof.Machine
end
